-- ==== Sys2Proof/Word.lean ====
section
/-! DEFINITION. Bytes and words of MSX-CODEC (00_scope.md R10, R11) and the plainest arithmetic on them. -/

namespace Sys2Proof

/-- A byte: an unsigned integer of 8 bits, bit 0 the least significant (R10, R11). -/
abbrev Byte := BitVec 8

/-- A word: an unsigned integer of 16 bits, on the host bus and in the control registers (R10). -/
abbrev Word := BitVec 16

/-- A word address of the host register space (20_memory.md R60, R61). -/
abbrev Addr := BitVec 12

/-- A natural number as a word. Every length and offset it is applied to is below 65536 (R10). -/
abbrev word (x : Nat) : Word := BitVec.ofNat 16 x

end Sys2Proof
end

