-- ==== Sys2Proof/Config.lean ====
section
/-! DEFINITION. What an implementation of MSX-CODEC fixes: the constants of 00_scope.md R8, the types of the
configuration ROMs, the six parameters of R9 with their reference values, and the one free value of the model. -/

namespace Sys2Proof

/-! Constants of 00_scope.md R8, and the ones R8 derives from them. -/

/-- `FRAME_LEN`: bytes in a frame. -/
abbrev frameLen : Nat := 402
/-- `HDR_LEN`: bytes in the header slice. -/
abbrev hdrLen : Nat := 12
/-- `SOX`: the value of `raw[0]`. -/
abbrev sox : Byte := 0xF0
/-- `MARK_OFF`: offset of the format marker. -/
abbrev markOff : Nat := 12
/-- `FMT_MARK`: value of the format marker. -/
abbrev fmtMark : Byte := 0x40
/-- `PAY_OFF`: offset of the first packed payload byte. -/
abbrev payOff : Nat := 13
/-- `PACKED_LEN`: bytes of packed payload. -/
abbrev packedLen : Nat := 388
/-- `TERM_OFF`: offset of the terminator. -/
abbrev termOff : Nat := 401
/-- `TERM`: value of the terminator. -/
abbrev term : Byte := 0xF7
/-- `NAT_LEN`: bytes of natural payload and of the record image. -/
abbrev natLen : Nat := 339
/-- `GROUP_BASE`: natural offset of the first controller group. -/
abbrev groupBase : Nat := 3
/-- `GROUP_LEN`: bytes of one controller group. -/
abbrev groupLen : Nat := 31
/-- `TRANSPORT_BASE`: natural offset of the transport block. -/
abbrev transportBase : Nat := 251
/-- Natural offset of the first transport button (30_encoding.md R97). -/
abbrev buttonBase : Nat := 252
/-- `BTN_LEN`: bytes of a button sub-record. -/
abbrev btnLen : Nat := 6
/-- Natural offset of `transport.custom[0]` (R97). -/
abbrev customBase : Nat := 318
/-- Natural offset of `transport.trail[0]` (R97). -/
abbrev trailBase : Nat := 323

/-! The record schema's vocabulary (30_encoding.md R84 to R88, R97). -/

/-- The six field-descriptor kinds (R88). -/
inductive Kind where
  | u8 | mode | led | assign | behav | rsvd
deriving DecidableEq, Repr

/-- The variants of the four enumerations, as the source spells them (R87). -/
inductive Variant where
  | cubase | db | live | protools | sonar
  | internal | external
  | assign | cc | note
  | momentary | toggle
deriving DecidableEq, Repr

/-- The four cells of a slider or a knob (R85). -/
inductive AnalogField where
  | type | cc | min | max
deriving DecidableEq, Repr

/-- The six cells of a button sub-record (R86). -/
inductive ButtonField where
  | type | behavior | cc | off | on | rsvd
deriving DecidableEq, Repr

/-- The three buttons of a controller group (R85); `record` is the one the spec spells `rec`. -/
inductive GroupButton where
  | solo | mute | record
deriving DecidableEq, Repr

/-- The eleven buttons of the transport block (R97); `record` is the one the spec spells `rec`. -/
inductive TransportButton where
  | trackPrev | trackNext | cycle | markerSet | markerPrev | markerNext
  | rewind | fastForward | stop | play | record
deriving DecidableEq, Repr

/-- One slot descriptor of a controller group; `rsvd i` is the reserved slot named `rsvd<i>` (R85). -/
inductive Slot where
  | slider (f : AnalogField)
  | knob (f : AnalogField)
  | button (b : GroupButton) (f : ButtonField)
  | rsvd (i : Fin 5)
deriving DecidableEq, Repr

/-- The structured name of a cell of the record (10_state.md R24). -/
inductive CellName where
  | commonChannel | commonMode | commonLed
  | group (g : Nat) (slot : Slot)
  | transportChannel
  | transport (b : TransportButton) (f : ButtonField)
  | custom (i : Nat)
  | trail (i : Nat)
deriving DecidableEq, Repr

/-! The six parameters of 00_scope.md R9. -/

/-- One entry of `HDR_CONST` (30_encoding.md R82). -/
structure HdrEntry where
  mask  : Byte
  value : Byte
deriving DecidableEq, Repr

/-- `ENUM_CODE`: the wire code of every variant (30_encoding.md R87). -/
structure EnumCode where
  cubase    : Byte
  db        : Byte
  live      : Byte
  protools  : Byte
  sonar     : Byte
  internal  : Byte
  external  : Byte
  assign    : Byte
  cc        : Byte
  note      : Byte
  momentary : Byte
  toggle    : Byte
deriving DecidableEq, Repr

/-- The parameters the source leaves to the implementation (00_scope.md R9), fixed when the block is built
(10_state.md R43). The constraints of R9 are `Config.Valid` (WellFormed.lean). -/
structure Config where
  ibufCap     : Nat
  obufCap     : Nat
  hasEnc      : Bool
  hdrConst    : Vector HdrEntry 12
  enumCode    : EnumCode
  groupLayout : List Slot
deriving DecidableEq, Repr

/-- The reference `HDR_CONST` (30_encoding.md R82).
PRESUMED (log 1): the spec marks entries 1 to 11 as general knowledge; unsafe only for a claim that names them. -/
def Config.refHdrConst : Vector HdrEntry 12 :=
  #v[⟨0xFF, 0xF0⟩, ⟨0xFF, 0x42⟩, ⟨0xF0, 0x40⟩, ⟨0xFF, 0x00⟩, ⟨0xFF, 0x01⟩, ⟨0xFF, 0x13⟩,
     ⟨0xFF, 0x00⟩, ⟨0xFF, 0x7F⟩, ⟨0xFF, 0x7F⟩, ⟨0xFF, 0x02⟩, ⟨0xFF, 0x03⟩, ⟨0xFF, 0x05⟩]

/-- The reference `ENUM_CODE` (30_encoding.md R87). PRESUMED (log 1), as `refHdrConst`. -/
def Config.refEnumCode : EnumCode where
  cubase    := 0x01
  db        := 0x02
  live      := 0x03
  protools  := 0x04
  sonar     := 0x05
  internal  := 0x00
  external  := 0x01
  assign    := 0x00
  cc        := 0x01
  note      := 0x02
  momentary := 0x00
  toggle    := 0x01

/-- The six cells of a button sub-record, in the order of R86. -/
def buttonFields : List ButtonField := [.type, .behavior, .cc, .off, .on, .rsvd]

/-- The reference `GROUP_LAYOUT` (30_encoding.md R85): reserved slots at group offsets 0, 2, 6, 8, 12.
PRESUMED (log 1), as `refHdrConst`. -/
def Config.refGroupLayout : List Slot :=
  [.rsvd 0, .slider .type, .rsvd 1, .slider .cc, .slider .min, .slider .max,
   .rsvd 2, .knob .type, .rsvd 3, .knob .cc, .knob .min, .knob .max, .rsvd 4]
  ++ buttonFields.map (Slot.button .solo)
  ++ buttonFields.map (Slot.button .mute)
  ++ buttonFields.map (Slot.button .record)

/-- The reference values of the six parameters (00_scope.md R9). -/
def Config.reference : Config where
  ibufCap     := 512
  obufCap     := 1024
  hasEnc      := true
  hdrConst    := Config.refHdrConst
  enumCode    := Config.refEnumCode
  groupLayout := Config.refGroupLayout

/-- The free value of the model: the byte that the `i`-th read of an `OBUF` cell at or above `OLEN` returns
(20_memory.md R68: "a model draws any byte, and two such reads need not agree"). Nothing constrains it (log 5). -/
opaque Config.unspecifiedByte : Nat → Byte

end Sys2Proof
end

