-- ==== Sys2Proof/Syntax.lean ====
section
/-! DEFINITION. The instructions of MSX-CODEC: one constructor per row of spec/opcode_table.json (00_scope.md R1),
and the codes they are read from, in the table's three formats (30_encoding.md R90). -/

namespace Sys2Proof

/-- The fifteen instructions: eight host commands (30_encoding.md R90), six field-descriptor kinds (R88), one store
with a side effect (44_control.md R180). -/
inductive Instr where
  /-- `NOP`, 44_control.md R184. -/
  | nop
  /-- `CLR`, 44_control.md R185. -/
  | clr
  /-- `UNPK`, 40_unpack.md R110. -/
  | unpk
  /-- `PACK`, 41_pack.md R120. -/
  | pack
  /-- `RDEC`, 42_record.md R140. -/
  | rdec
  /-- `RENC`, 42_record.md R150. -/
  | renc
  /-- `FDEC`, 43_frame.md R160. -/
  | fdec
  /-- `FENC`, 43_frame.md R170. -/
  | fenc
  /-- Kind `U8`, 42_record.md R135. -/
  | u8
  /-- Kind `MODE`, 42_record.md R136. -/
  | mode
  /-- Kind `LED`, 42_record.md R137. -/
  | led
  /-- Kind `ASSIGN`, 42_record.md R138. -/
  | assign
  /-- Kind `BEHAV`, 42_record.md R139. -/
  | behav
  /-- Kind `RSVD`, 42_record.md R141. -/
  | rsvd
  /-- `PUSH` of the byte in bits 7..0 of the written word, 44_control.md R180. -/
  | push (b : Byte)
deriving DecidableEq, Repr

/-- What an instruction is read from, by the table's formats: a word written to `CMD` (format CMD), a 3-bit kind code
of `SCHEMA` (format FDESC), a host write at an address (format BUSWR). Rows of different formats decode different
things (30_encoding.md R90). -/
inductive Code where
  | cmd (w : Word)
  | fdesc (k : BitVec 3)
  | buswr (a : Addr) (d : Word)
deriving DecidableEq, Repr

/-- Why a code is no instruction. -/
inductive DecodeError where
  /-- A command word that names no command (30_encoding.md R91); the block takes the error `IllegalCommand`. -/
  | illegalCommand (w : Word)
  /-- A kind code that is none of the six (30_encoding.md R88); `SCHEMA` never holds one. -/
  | unusedKind (k : BitVec 3)
  /-- A write at an address other than `DIN`'s: a host event, but no row of the table (44_control.md R189). -/
  | notPush (a : Addr)
deriving DecidableEq, Repr

end Sys2Proof
end

