-- ==== Sys2Proof/WellFormed.lean ====
section
/-! DEFINITION. What a configuration must satisfy (00_scope.md R9, 30_encoding.md R82, R85, R87), and which
instructions a configuration has (30_encoding.md R91). -/

namespace Sys2Proof

/-- The enumeration a variant belongs to (30_encoding.md R87). -/
def Variant.kind : Variant → Kind
  | .cubase | .db | .live | .protools | .sonar => .mode
  | .internal | .external => .led
  | .assign | .cc | .note => .assign
  | .momentary | .toggle => .behav

/-- The variants of an enumeration, in the order of their ordinals (30_encoding.md R87); none for `U8` and `RSVD`. -/
def Kind.variants : Kind → List Variant
  | .mode => [.cubase, .db, .live, .protools, .sonar]
  | .led => [.internal, .external]
  | .assign => [.assign, .cc, .note]
  | .behav => [.momentary, .toggle]
  | .u8 => []
  | .rsvd => []

/-- `ENUM_CODE(e, v)` (30_encoding.md R87). -/
def EnumCode.code (c : EnumCode) : Variant → Byte
  | .cubase => c.cubase
  | .db => c.db
  | .live => c.live
  | .protools => c.protools
  | .sonar => c.sonar
  | .internal => c.internal
  | .external => c.external
  | .assign => c.assign
  | .cc => c.cc
  | .note => c.note
  | .momentary => c.momentary
  | .toggle => c.toggle

/-- R9: 403 ≤ `IBUF_CAP` ≤ 65534. -/
abbrev Config.IbufCapOk (c : Config) : Prop := 403 ≤ c.ibufCap ∧ c.ibufCap ≤ 65534

/-- R9: `IBUF_CAP` + ⌈`IBUF_CAP`/7⌉ ≤ `OBUF_CAP` ≤ 2048. -/
abbrev Config.ObufCapOk (c : Config) : Prop :=
  c.ibufCap + (c.ibufCap + 6) / 7 ≤ c.obufCap ∧ c.obufCap ≤ 2048

/-- R9, R82: every entry of `HDR_CONST` has value & ~mask = 0, and entry 0 is (0xFF, 0xF0). -/
abbrev Config.HdrConstOk (c : Config) : Prop :=
  (∀ i : Fin 12, c.hdrConst[i].value &&& ~~~c.hdrConst[i].mask = 0) ∧ c.hdrConst[0] = ⟨0xFF, sox⟩

/-- R9, R87: `ENUM_CODE` is injective within each enumeration. -/
abbrev Config.EnumCodeOk (c : Config) : Prop :=
  (Kind.mode.variants.map c.enumCode.code).Nodup ∧ (Kind.led.variants.map c.enumCode.code).Nodup ∧
  (Kind.assign.variants.map c.enumCode.code).Nodup ∧ (Kind.behav.variants.map c.enumCode.code).Nodup

/-- The items of a controller group in the relative order R85 demands. -/
def groupItems : List Slot :=
  [.slider .type, .slider .cc, .slider .min, .slider .max,
   .knob .type, .knob .cc, .knob .min, .knob .max]
  ++ buttonFields.map (Slot.button .solo)
  ++ buttonFields.map (Slot.button .mute)
  ++ buttonFields.map (Slot.button .record)

/-- A slot is one of the five reserved slots outside the buttons. -/
def Slot.isRsvd : Slot → Bool
  | .rsvd _ => true
  | _ => false

/-- A slot is a cell of a button other than its last. -/
def Slot.insideButton : Slot → Bool
  | .button _ f => f != .rsvd
  | _ => false

/-- No reserved slot follows a cell of a button other than its last (R85: "never inside a button sub-record"). -/
def layoutContiguous : List Slot → Bool
  | a :: b :: l => !(a.insideButton && b.isRsvd) && layoutContiguous (b :: l)
  | _ => true

/-- R9, R85: the constraint on `GROUP_LAYOUT`. The two filters make it 31 slots long. -/
abbrev Config.GroupLayoutOk (c : Config) : Prop :=
  c.groupLayout.filter (fun x => !x.isRsvd) = groupItems ∧
  c.groupLayout.filter Slot.isRsvd = [.rsvd 0, .rsvd 1, .rsvd 2, .rsvd 3, .rsvd 4] ∧
  layoutContiguous c.groupLayout = true

/-- The constraints of 00_scope.md R9 on the six parameters. -/
abbrev Config.Valid (c : Config) : Prop :=
  c.IbufCapOk ∧ c.ObufCapOk ∧ c.HdrConstOk ∧ c.EnumCodeOk ∧ c.GroupLayoutOk

/-- Which instructions a block of this configuration has: without the encode path, `PACK`, `RENC` and `FENC` are
illegal (30_encoding.md R91, 44_control.md R190). -/
def Instr.wellFormed (c : Config) : Instr → Bool
  | .pack | .renc | .fenc => c.hasEnc
  | .nop | .clr | .unpk | .rdec | .fdec => true
  | .u8 | .mode | .led | .assign | .behav | .rsvd => true
  | .push _ => true

end Sys2Proof
end

