-- ==== Sys2Proof/Decode.lean ====
section
/-! DEFINITION. The decoder, total on every code and rejecting by name, and the encoder, both written from the
encoding tables of 30_encoding.md (R88, R90, R91) and 20_memory.md R61. -/

namespace Sys2Proof

/-- A command word: bits 3..0 the opcode, bits 15..4 zero (30_encoding.md R90); every other word is illegal (R91).
That `PACK`, `RENC` and `FENC` are illegal when `HAS_ENC` = 0 is part of their meanings (log 11). -/
def decodeCmd (w : Word) : Except DecodeError Instr :=
  if w.extractLsb' 4 12 ≠ 0 then .error (.illegalCommand w)
  else match (w.extractLsb' 0 4).toNat with
    | 0x0 => .ok .nop
    | 0x1 => .ok .clr
    | 0x2 => .ok .unpk
    | 0x3 => .ok .pack
    | 0x4 => .ok .rdec
    | 0x5 => .ok .renc
    | 0x6 => .ok .fdec
    | 0x7 => .ok .fenc
    | _ => .error (.illegalCommand w)

/-- A kind code (30_encoding.md R88). -/
def decodeKind (k : BitVec 3) : Except DecodeError Instr :=
  match k.toNat with
  | 0 => .ok .u8
  | 1 => .ok .mode
  | 2 => .ok .led
  | 3 => .ok .assign
  | 4 => .ok .behav
  | 7 => .ok .rsvd
  | _ => .error (.unusedKind k)

/-- A host write: `PUSH` is the write at `DIN`, address 0x003; bits 15..8 of the written word are ignored
(44_control.md R180). -/
def decodeWrite (a : Addr) (d : Word) : Except DecodeError Instr :=
  if a = 0x003 then .ok (.push (d.setWidth 8)) else .error (.notPush a)

/-- The instruction a code stands for. -/
def decode : Code → Except DecodeError Instr
  | .cmd w => decodeCmd w
  | .fdesc k => decodeKind k
  | .buswr a d => decodeWrite a d

/-- The code of an instruction. -/
def encode : Instr → Code
  | .nop => .cmd 0x0000
  | .clr => .cmd 0x0001
  | .unpk => .cmd 0x0002
  | .pack => .cmd 0x0003
  | .rdec => .cmd 0x0004
  | .renc => .cmd 0x0005
  | .fdec => .cmd 0x0006
  | .fenc => .cmd 0x0007
  | .u8 => .fdesc 0
  | .mode => .fdesc 1
  | .led => .fdesc 2
  | .assign => .fdesc 3
  | .behav => .fdesc 4
  | .rsvd => .fdesc 7
  | .push b => .buswr 0x003 (b.setWidth 16)

/-- The code that a row's bits `w` stand for, by the row's width as spec/opcode_table.json numbers it: up to 8 bits a
kind code, 12 bits the address of a host write whose data word is 0, 16 bits a command word, 32 bits an address and a
data word. DESIGN CHOICE (log 10): 16 bits are a command word, so `PUSH`'s row is read at its own width, 12. -/
def tableCode (nbits w : Nat) : Option Code :=
  if nbits ≤ 8 then (if w < 8 then some (.fdesc (BitVec.ofNat 3 w)) else none)
  else if nbits ≤ 12 then (if w < 4096 then some (.buswr (BitVec.ofNat 12 w) 0) else none)
  else if nbits ≤ 16 then (if w < 65536 then some (.cmd (word w)) else none)
  else if w % 65536 < 4096 then some (.buswr (BitVec.ofNat 12 (w % 65536)) (word (w / 65536)))
  else none

/-- The instruction the decoder reads from a row's bits. -/
def decodeTableWord (nbits w : Nat) : Option Instr :=
  match tableCode nbits w with
  | none => none
  | some c =>
    match decode c with
    | .ok i => some i
    | .error _ => none

end Sys2Proof
end

