-- ==== Sys2Proof/Machine/State.lean ====
section
/-! DEFINITION. The state of MSX-CODEC as plain data (10_state.md R20 to R45), the reasons a step can stop, and the
state after reset. -/

namespace Sys2Proof.Machine

/-- No state of the block stops the machine with a fault: the five errors of 60_exceptions.md end in a next state
(R210) and "Nothing in the block is `stuck`" (93_implementation_defined.md). Nothing raises one (log 15; safe). -/
inductive Fault where
deriving DecidableEq, Repr

/-- Why a step has no meaning. -/
inductive Refusal where
  /-- An instruction without a meaning yet; raised by no arm of this model. Safe. -/
  | notModelled (mnemonic : String)
  /-- A host access to an address the map leaves unmapped (20_memory.md R66: "a model refuses them"); raised by the
  bus operations of Machine/Bus.lean. Safe. -/
  | unmapped (a : Addr)
  /-- A host read of a write-only location, `CMD` or `DIN` (20_memory.md R66); raised as `unmapped`. Safe. -/
  | readOfWriteOnly (a : Addr)
  /-- A host write of a read-only location (20_memory.md R66); raised as `unmapped`. Safe. -/
  | writeOfReadOnly (a : Addr)
  /-- A field descriptor run while no record walk stands at a cell, so that it has no operand (log 9); raised by the
  descriptors' meanings. Safe. -/
  | noCell
  /-- The schema holds a kind code that names no descriptor (30_encoding.md R88: it never does); raised by the walker's
  fetch. Safe. -/
  | unusedKind (k : BitVec 3)
deriving DecidableEq, Repr

/-- Byte cells by index, as a list of (index, byte) pairs: indices strictly rising, no entry equal to 0, which is what
an unlisted cell holds. `N` resets to 0 (10_state.md R45); for `IBUF` and `OBUF` the spec gives no value and none is
observable (log 6). -/
abbrev Memory := List Host.Cell

/-- A host event (10_state.md R20, 20_memory.md R61). -/
inductive HostEvent where
  | reset
  | wr (a : Addr) (d : Word)
  | rd (a : Addr)
deriving DecidableEq, Repr

/-- The kinds of error, with the no-error case left to `ERRCODE` = 0 (60_exceptions.md R201). -/
inductive ErrKind where
  | shape | headerMismatch | reservedByte | unrecognizedEnum | illegalCommand
deriving DecidableEq, Repr

/-- The coordinate spaces of `ERROFF` (60_exceptions.md R202). -/
inductive Stage where
  | none | frame | packed | natural | capacity
deriving DecidableEq, Repr

/-- What `raise E(stage, off, exp, act)` carries (00_scope.md R13). -/
structure Err where
  kind  : ErrKind
  stage : Stage
  off   : Word
  exp   : Word
  act   : Word
deriving DecidableEq, Repr

/-- What `enum_decode` answers (00_scope.md R14): a known variant, or the raw byte. -/
inductive EnumVal where
  | known (v : Variant)
  | unrecognized (b : Byte)
deriving DecidableEq, Repr

/-- What a data command commits (44_control.md R186): the header and the record image if it writes them, the bytes of
its output, and the first unrecognised offset it passed. -/
structure Commit where
  hdr   : Option (Vector Byte 12) := none
  image : Option (List Byte) := none
  out   : List Byte := []
  warn  : Option Nat := none
deriving DecidableEq, Repr

/-- The working registers of the line codec (10_state.md R40, R41) and the bytes it has staged. -/
structure Line where
  ip  : Nat
  op  : Nat
  k   : BitVec 3
  bm  : Byte
  out : List Byte
deriving DecidableEq, Repr

/-- Each working register starts at 0 (10_state.md R40, 40_unpack.md R111). -/
def Line.start : Line := { ip := 0, op := 0, k := 0, bm := 0, out := [] }

/-- The six data commands (44_control.md R186), as the running command of the hidden registers. -/
inductive PassCmd where
  | unpk | pack | rdec | renc | fdec | fenc
deriving DecidableEq, Repr

/-- Which cursor of 10_state.md R40 a running command advances: `IP`, taking bytes of `IBUF`; `OP`, producing the frame's
header and marker; `NP`, walking the cells; `OP`, producing the bytes that come after the input or the walk (log 8). -/
inductive Phase where
  | take | head | walk | emit
deriving DecidableEq, Repr

/-- The hidden registers while a command runs (10_state.md R41): the running command and its pass, the line codec's
registers, the staged header and natural bytes, the cell cursor `NP` and the first unrecognised offset so far. -/
structure Work where
  cmd   : PassCmd
  phase : Phase
  line  : Line
  hdr   : Vector Byte 12
  image : List Byte
  np    : Nat
  warn  : Option Nat
deriving DecidableEq, Repr

/-- The state of the block (10_state.md R21), its hidden registers (R41), its configuration (R43, log 1), and the
model's own three fields. -/
structure State where
  /-- The parameters fixed when the block is built (R43). No event changes them. -/
  config   : Config
  /-- `N`, the record register file (R22). -/
  n        : Memory
  /-- `HDR` (R25). -/
  hdr      : Vector Byte 12
  /-- `CFG` (R29). -/
  cfg      : Word
  /-- `STATUS` (R28). -/
  status   : Word
  /-- `ILEN` (R30). -/
  ilen     : Word
  /-- `OLEN` (R31). -/
  olen     : Word
  /-- `ERRCODE` (R32). -/
  errcode  : Word
  /-- `ERRSTAGE` (R33). -/
  errstage : Word
  /-- `ERROFF` (R34). -/
  erroff   : Word
  /-- `ERREXP` (R35). -/
  errexp   : Word
  /-- `ERRACT` (R36). -/
  erract   : Word
  /-- `WARNOFF` (R37). -/
  warnoff  : Word
  /-- `IBUF` (R38). -/
  ibuf     : Memory
  /-- `OBUF` (R39). -/
  obuf     : Memory
  /-- The hidden registers (R41); `none`: dead, no command is between its start and its end (R45, log 8). -/
  work     : Option Work
  /-- The model's own: the events the host has issued and the block has not taken, oldest first (log 2). -/
  events   : List HostEvent
  /-- The model's own: the word the latest event put on the read bus (log 4). -/
  rdata    : Option Word
  /-- The model's own: how many unspecified bytes have been drawn (log 5). -/
  draws    : Nat
deriving DecidableEq, Repr

/-- The state after reset of a block built with the parameters `c` (10_state.md R45). -/
def State.resetOf (c : Config) : State where
  config   := c
  n        := []
  hdr      := Vector.replicate 12 0
  cfg      := 0
  status   := 0
  ilen     := 0
  olen     := 0
  errcode  := 0
  errstage := 0
  erroff   := 0
  errexp   := 0
  erract   := 0
  warnoff  := 0
  ibuf     := []
  obuf     := []
  work     := none
  events   := []
  rdata    := none
  draws    := 0

/-- The state after reset (10_state.md R45, 70_reset_and_hazards.md R230), of a block built with the reference
parameters (PRESUMED, log 1). -/
def State.reset : State := State.resetOf Config.reference

end Sys2Proof.Machine
end

