-- ==== Sys2Proof/Machine/Operands.lean ====
section
/-! DEFINITION. The operands of the instructions: the schema that names every cell (30_encoding.md R84 to R89), the
enumerated field dispatch (42_record.md R132, R133), the `TAG` view (10_state.md R26), the input bytes, and the
assembled natural byte (30_encoding.md R92). -/

namespace Sys2Proof.Machine

/-! ## The schema -/

/-- Kind of a button's cell (30_encoding.md R86). -/
def buttonFieldKind : ButtonField → Kind
  | .type => .assign
  | .behavior => .behav
  | .cc => .u8
  | .off => .u8
  | .on => .u8
  | .rsvd => .rsvd

/-- Kind of a group's slot (30_encoding.md R85). -/
def slotKind : Slot → Kind
  | .slider _ => .u8
  | .knob _ => .u8
  | .button _ f => buttonFieldKind f
  | .rsvd _ => .rsvd

/-- Kind of a cell by its name (30_encoding.md R84 to R86, R97). -/
def nameKind : CellName → Kind
  | .commonChannel => .u8
  | .commonMode => .mode
  | .commonLed => .led
  | .group _ slot => slotKind slot
  | .transportChannel => .u8
  | .transport _ f => buttonFieldKind f
  | .custom _ => .u8
  | .trail _ => .rsvd

/-- The transport buttons in line order (30_encoding.md R97). -/
def transportButtons : List TransportButton :=
  [.trackPrev, .trackNext, .cycle, .markerSet, .markerPrev, .markerNext,
   .rewind, .fastForward, .stop, .play, .record]

/-- `SCHEMA[i]`'s name, for a natural offset `i` (30_encoding.md R84, R89, R97). -/
def cellName (c : Config) (i : Nat) : CellName :=
  if i = 0 then .commonChannel
  else if i = 1 then .commonMode
  else if i = 2 then .commonLed
  else if i < transportBase then
    .group ((i - groupBase) / groupLen) (c.groupLayout.getD ((i - groupBase) % groupLen) (.rsvd 0))
  else if i = transportBase then .transportChannel
  else if i < customBase then
    .transport (transportButtons.getD ((i - buttonBase) / btnLen) .record)
      (buttonFields.getD ((i - buttonBase) % btnLen) .rsvd)
  else if i < trailBase then .custom (i - customBase)
  else .trail (i - trailBase)

/-- `kind(SCHEMA[i])` (30_encoding.md R89). -/
def kindAt (c : Config) (i : Nat) : Kind := nameKind (cellName c i)

/-- `SCHEMA[0..338]`: the name and the kind of every cell (30_encoding.md R89). -/
def schema (c : Config) : List (CellName × Kind) :=
  (List.range natLen).map (fun i => (cellName c i, kindAt c i))

/-- The 3-bit kind code (30_encoding.md R88). -/
def kindCode : Kind → BitVec 3
  | .u8 => 0
  | .mode => 1
  | .led => 2
  | .assign => 3
  | .behav => 4
  | .rsvd => 7

/-- The natural offset of a named cell: the schema read the other way (30_encoding.md R89). -/
def cellOffset (c : Config) : CellName → Nat
  | .commonChannel => 0
  | .commonMode => 1
  | .commonLed => 2
  | .group g slot => groupBase + groupLen * g + c.groupLayout.idxOf slot
  | .transportChannel => transportBase
  | .transport b f => buttonBase + btnLen * transportButtons.idxOf b + buttonFields.idxOf f
  | .custom i => customBase + i
  | .trail i => trailBase + i

/-! ## Enumerated field dispatch -/

/-- `enum_decode(e, b)` (42_record.md R132): the variant whose code is `b`, or the raw byte. -/
def enumDecode (c : Config) (e : Kind) (b : Byte) : EnumVal :=
  match e.variants.find? (fun v => c.enumCode.code v == b) with
  | some v => .known v
  | none => .unrecognized b

/-- `enum_encode(e, x)` (42_record.md R133). -/
def enumEncode (c : Config) : EnumVal → Byte
  | .known v => c.enumCode.code v
  | .unrecognized b => b

/-- A variant's ordinal: its position in the source's list (30_encoding.md R87). -/
def variantOrdinal (v : Variant) : Nat := v.kind.variants.idxOf v

/-- The low byte of `TAG` for a cell of kind `e` holding `b` (10_state.md R26). For `U8` and `RSVD`, which have no
variants, `enum_decode` is `Unrecognized` and the byte is 0xFF as R26 says. -/
def tagLow (c : Config) (e : Kind) (b : Byte) : Byte :=
  match enumDecode c e b with
  | .known v => BitVec.ofNat 8 (variantOrdinal v)
  | .unrecognized _ => 0xFF

/-- The word of `TAG` for a cell of kind `e` holding `b`: kind code in bits 15..8 (10_state.md R26). -/
def tagWord (c : Config) (e : Kind) (b : Byte) : Word :=
  ((kindCode e).setWidth 8 : Byte) ++ tagLow c e b

/-! ## Assembled bytes -/

/-- The natural byte: the data byte OR bit `k` of the bitmap moved to bit 7; the data byte is not masked
(30_encoding.md R92). -/
def naturalByte (bm : Byte) (k : Nat) (b : Byte) : Byte :=
  b ||| (((bm >>> k) &&& 1) <<< 7)

/-- The packed data byte: bit 7 cleared (30_encoding.md R92). -/
def packedByte (x : Byte) : Byte := x &&& 0x7F

/-- The bitmap of a chunk from its natural bytes: bit 7 of the byte in position `r` goes to bit `r`
(30_encoding.md R92, 41_pack.md R121). -/
def bitmapFrom : Nat → List Byte → Byte
  | _, [] => 0
  | r, x :: xs => ((x >>> 7) <<< r) ||| bitmapFrom (r + 1) xs

/-! ## Where a natural byte lies (30_encoding.md R81, 60_exceptions.md R222) -/

/-- The packed offset of the seven low bits of natural offset `j`. -/
def packedDataOffset (j : Nat) : Nat := 8 * (j / 7) + 1 + j % 7

/-- The packed offset of the bitmap that holds the high bit of natural offset `j`, and the bit. -/
def packedHighBit (j : Nat) : Nat × Nat := (8 * (j / 7), j % 7)

/-- The frame offset of the seven low bits of natural offset `j`. -/
def frameDataOffset (j : Nat) : Nat := payOff + packedDataOffset j

/-- The frame offset of the bitmap that holds the high bit of natural offset `j`, and the bit. -/
def frameHighBit (j : Nat) : Nat × Nat := (payOff + (packedHighBit j).1, (packedHighBit j).2)

/-! ## Lengths (30_encoding.md R93) -/

/-- `ulen(L)`: the natural length of a packed length. -/
def ulen (l : Nat) : Nat := 7 * (l / 8) + (l % 8 - 1)

/-- `plen(n)`: the packed length of a natural length. -/
def plen (x : Nat) : Nat := x + (x + 6) / 7

end Sys2Proof.Machine
end

