-- ==== Sys2Proof/Machine/Flags.lean ====
section
/-! DEFINITION. The two status indications `STATE` and `WARN`, fields of `STATUS` (10_state.md R28, R42), and the bits
of `CFG` (R29). -/

namespace Sys2Proof.Machine

/-- The values of `STATUS.STATE` (10_state.md R28). -/
def stateIdle : Word := 0
/-- `STATE` = `OK`. -/
def stateOk : Word := 1
/-- `STATE` = `ERR`. -/
def stateErr : Word := 2
/-- `STATUS.WARN`, bit 2. -/
def warnBit : Word := 4

/-- `STATUS` after a command that succeeded: `STATE` = `OK`, and `WARN` = 1 exactly when an unrecognised enumeration
byte was passed (10_state.md R28, 60_exceptions.md R213). -/
def okStatus (warn : Option Nat) : Word :=
  match warn with
  | none => stateOk
  | some _ => stateOk ||| warnBit

/-- `WARNOFF` after a command that succeeded: the first unrecognised offset, or 0 (10_state.md R37). -/
def okWarnoff (warn : Option Nat) : Word :=
  match warn with
  | none => 0
  | some i => word i

/-- `STATUS.STATE` of a state. -/
def State.stateField (s : State) : BitVec 2 := s.status.extractLsb' 0 2

/-- `STATUS.WARN` of a state. -/
def State.warnFlag (s : State) : Bool := s.status.getLsbD 2

/-- `CFG.ES` (10_state.md R29). -/
def State.es (s : State) : Bool := s.cfg.getLsbD 0

/-- What a write of `d` leaves in `CFG`: bit 0 stored, bits 15..1 zero (10_state.md R29, 44_control.md R181). -/
def cfgWrite (d : Word) : Word := d &&& 1

end Sys2Proof.Machine
end

