-- ==== Sys2Proof/Machine/Ops.lean ====
section
/-! DEFINITION. The named operations over buffers and registers, the frame every data command runs in
(44_control.md R186) and the error entry (60_exceptions.md R210). -/

namespace Sys2Proof.Machine

/-! ## Byte cells -/

/-- What an unlisted cell holds: `N` resets to 0 (10_state.md R45). DESIGN CHOICE for `IBUF` and `OBUF`, unobservable
(log 6). -/
def Memory.unlisted : Byte := 0

/-- The canonical form: indices strictly rising, no entry equal to an unlisted cell. -/
abbrev Memory.wf (m : Memory) : Prop :=
  m.Pairwise (fun x y => x.1 < y.1) ∧ ∀ x ∈ m, x.2 ≠ Memory.unlisted

/-- The byte of cell `a`. -/
def Memory.read : Memory → Nat → Byte
  | [], _ => Memory.unlisted
  | (k, v) :: m, a => if k = a then v else Memory.read m a

/-- Bytes as entries from cell `a` on; a byte that an unlisted cell holds gets no entry. -/
def Memory.entries : Nat → List Byte → Memory
  | _, [] => []
  | a, b :: bs => if b = Memory.unlisted then Memory.entries (a + 1) bs else (a, b) :: Memory.entries (a + 1) bs

/-- Bytes stored from cell `a` on, the first lowest (20_memory.md R62): the cells below, the bytes, the cells above. -/
def Memory.store (m : Memory) (a : Nat) (bs : List Byte) : Memory :=
  m.filter (fun x => decide (x.1 < a)) ++ Memory.entries a bs
    ++ m.filter (fun x => decide (a + bs.length ≤ x.1))

/-- Cell `a` set to `b`. -/
def Memory.write (m : Memory) (a : Nat) (b : Byte) : Memory := m.store a [b]

/-- The bytes of `len` cells from `a` on. -/
def Memory.bytes (m : Memory) (a len : Nat) : List Byte :=
  (List.range' a len).map (fun i => m.read i)

/-! ## The record register file `N` (10_state.md R22, R23) -/

/-- `N[i]`: 0 for a hardwired cell (R23). -/
def readCell (c : Config) (m : Memory) (i : Nat) : Byte :=
  if kindAt c i = .rsvd then 0 else m.read i

/-- `N[i] <- b`: ignored by a hardwired cell (R23); the file has 339 cells (R22). -/
def writeCell (c : Config) (m : Memory) (i : Nat) (b : Byte) : Memory :=
  if i < natLen ∧ kindAt c i ≠ .rsvd then m.write i b else m

/-- A record image as the register file keeps it, from cell `i` on: 0 in the hardwired cells (R23). -/
def hardwired (c : Config) : Nat → List Byte → List Byte
  | _, [] => []
  | i, b :: bs => (if kindAt c i = .rsvd then 0 else b) :: hardwired c (i + 1) bs

/-- The cells from 0 on set to the bytes of a record image. -/
def writeCells (c : Config) (m : Memory) (bs : List Byte) : Memory := m.store 0 (hardwired c 0 bs)

/-- The 339-byte image `N[0], ..., N[338]` (42_record.md R150). -/
def State.image (s : State) : List Byte :=
  (List.range natLen).map (fun i => readCell s.config s.n i)

/-- The input of a data command, `IBUF[0:ILEN]` (10_state.md R30, R38). -/
def State.input (s : State) : List Byte := s.ibuf.bytes 0 s.ilen.toNat

/-- The output a host can drain, `OBUF[0:OLEN]` (10_state.md R31, R39). -/
def State.output (s : State) : List Byte := s.obuf.bytes 0 s.olen.toNat

/-! ## Codes of errors and stages -/

/-- The value of `ERRCODE` (60_exceptions.md R201). -/
def errCode : ErrKind → Word
  | .shape => 1
  | .headerMismatch => 2
  | .reservedByte => 3
  | .unrecognizedEnum => 4
  | .illegalCommand => 5

/-- The value of `ERRSTAGE` (60_exceptions.md R202). -/
def stageCode : Stage → Word
  | .none => 0
  | .frame => 1
  | .packed => 2
  | .natural => 3
  | .capacity => 4

/-! ## The frame of a data command (44_control.md R186) -/

/-- The prologue: `OLEN`, `STATUS`, `WARNOFF` and the error registers cleared (R186). -/
def State.prologue (s : State) : State :=
  { s with olen := 0, status := stateIdle, warnoff := 0,
           errcode := 0, errstage := 0, erroff := 0, errexp := 0, erract := 0 }

/-- Taking an error: the error entry of 60_exceptions.md R210. Nothing else changes; the hidden registers are dead when
the command ends (10_state.md R41). There is no return from it and nothing to restore (R212). -/
def State.errorEntry (e : Err) (s : State) : State :=
  { s with errcode := errCode e.kind, errstage := stageCode e.stage, erroff := e.off,
           errexp := e.exp, erract := e.act,
           status := stateErr, warnoff := 0, olen := 0, work := none }

/-- The commit of a data command that reached its end (R186): the staged header and image if there are any, the output
bytes and their count, `WARN` and `WARNOFF`, `STATE` = `OK`. -/
def State.commit (w : Commit) (s : State) : State :=
  { s with hdr := w.hdr.getD s.hdr,
           n := match w.image with
                | none => s.n
                | some bs => writeCells s.config s.n bs,
           obuf := s.obuf.store 0 w.out, olen := word w.out.length,
           status := okStatus w.warn, warnoff := okWarnoff w.warn, work := none }

/-- The epilogue: the commit's writes, or the error entry (R186). -/
def State.epilogue (r : Except Err Commit) (s : State) : State :=
  match r with
  | .ok w => s.commit w
  | .error e => s.errorEntry e

/-- A data command: the prologue, the body, which writes only staging registers, and the epilogue (R186). -/
def State.dataCommand (body : State → Except Err Commit) (s : State) : State :=
  s.prologue.epilogue (body s.prologue)

/-- An illegal command word `w`: the prologue, then `raise IllegalCommand(none, 0, 0, w)` (44_control.md R187). -/
def State.illegalCommand (w : Word) (s : State) : State :=
  s.prologue.errorEntry ⟨.illegalCommand, .none, 0, 0, w⟩

/-- `ShapeError(stage, 0, required, actual)` (60_exceptions.md R203). -/
def shapeErr (stage : Stage) (required : Nat) (actual : Word) : Err :=
  ⟨.shape, stage, 0, word required, actual⟩

/-- `HeaderMismatchError(FRAME, off, expected, actual)` (60_exceptions.md R204). -/
def headerErr (off : Nat) (expected actual : Byte) : Err :=
  ⟨.headerMismatch, .frame, word off, expected.setWidth 16, actual.setWidth 16⟩

end Sys2Proof.Machine
end

