-- ==== Sys2Proof/Machine/Control.lean ====
section
/-! DEFINITION. The instructions that are no codec function: `PUSH`, `NOP`, `CLR` (44_control.md), and the `Reset` event
(70_reset_and_hazards.md). -/

namespace Sys2Proof.Machine

/-- `PUSH` (44_control.md R180): the byte goes to `IBUF[ILEN]` if the buffer holds that cell; `ILEN` counts either way,
saturating at 65535 (10_state.md R30). -/
def execPush (b : Byte) (s : State) : Host.Outcome State Fault Refusal :=
  .next { s with
    ibuf := if s.ilen.toNat < s.config.ibufCap then s.ibuf.write s.ilen.toNat b else s.ibuf,
    ilen := if s.ilen.toNat < 65535 then s.ilen + 1 else s.ilen }

/-- `NOP`: no state changes at all (44_control.md R184). -/
def execNop (s : State) : Host.Outcome State Fault Refusal := .next s

/-- `CLR`: start a new input (44_control.md R185). -/
def execClr (s : State) : Host.Outcome State Fault Refusal :=
  .next { s with
    ilen := 0, olen := 0, status := stateIdle, errcode := 0, errstage := 0, erroff := 0,
    errexp := 0, erract := 0, warnoff := 0 }

/-- The `Reset` event (70_reset_and_hazards.md R230): every piece of architectural state at its reset value. The
configuration is wiring (10_state.md R43), the host's later events stay pending, and the count of drawn bytes is not
rewound (log 5). -/
def State.onReset (s : State) : State :=
  { State.resetOf s.config with events := s.events, draws := s.draws }

end Sys2Proof.Machine
end

