-- ==== Sys2Proof/Machine/Line.lean ====
section
/-! DEFINITION. The 7-bit line codec: the unpacker (40_unpack.md) and the packer (41_pack.md), and the commands `UNPK`
and `PACK`. -/

namespace Sys2Proof.Machine

/-- What one step of the unpacker leaves: the next `K` and `BM`, and zero or one output byte. -/
structure UStep where
  k   : BitVec 3
  bm  : Byte
  out : Option Byte
deriving DecidableEq, Repr

/-- One step of the unpacker: the input byte `b` arrives (40_unpack.md R111). -/
def ustep (k : BitVec 3) (bm b : Byte) : UStep :=
  if k = 0 then { k := 1, bm := b, out := none }
  else { k := k + 1, bm := bm, out := some (naturalByte bm (k.toNat - 1) b) }

/-- The output of the unpacker's steps from `K` and `BM` on (40_unpack.md R111). -/
def unpackFrom (k : BitVec 3) (bm : Byte) : List Byte → List Byte
  | [] => []
  | b :: bs => (ustep k bm b).out.toList ++ unpackFrom (ustep k bm b).k (ustep k bm b).bm bs

/-- `unpack(p)`: every byte of `p` stepped, from `K` = 0 and `BM` = 0 (40_unpack.md R111). -/
def unpack (p : List Byte) : List Byte := unpackFrom 0 0 p

/-- One byte consumed by the working registers: the cursors advance by one per byte consumed and produced (10_state.md
R40). -/
def Line.consume (l : Line) (b : Byte) : Line where
  ip  := l.ip + 1
  op  := l.op + (ustep l.k l.bm b).out.toList.length
  k   := (ustep l.k l.bm b).k
  bm  := (ustep l.k l.bm b).bm
  out := l.out ++ (ustep l.k l.bm b).out.toList

/-- One byte consumed that the unpacker does not see: `IP` advances by one (10_state.md R40). -/
def Line.skip (l : Line) : Line := { l with ip := l.ip + 1 }

/-- One byte produced: `OP` advances by one (10_state.md R40). -/
def Line.emit (l : Line) (b : Byte) : Line := { l with op := l.op + 1, out := l.out ++ [b] }

/-- One byte of a packed sequence produced: `K` is the place in the chunk, `BM` its bitmap (10_state.md R41). -/
def Line.emitPacked (l : Line) (b : Byte) : Line :=
  { l.emit b with k := l.k + 1, bm := if l.k = 0 then b else l.bm }

/-- The bytes emitted for one chunk of natural bytes: its bitmap, then its data bytes (41_pack.md R121). -/
def packChunk (xs : List Byte) : List Byte := bitmapFrom 0 xs :: xs.map packedByte

/-- `pack(x)`: chunks of up to seven bytes, each emitted in order; none for the empty sequence (41_pack.md R121). -/
def pack : List Byte → List Byte
  | a :: b :: c :: d :: e :: f :: g :: rest => packChunk [a, b, c, d, e, f, g] ++ pack rest
  | [] => []
  | xs => packChunk xs

/-- The byte at offset `p` of `pack(x)` (41_pack.md R121): the bitmap of chunk `p div 8`, or one of its data bytes. -/
def packedAt (x : List Byte) (p : Nat) : Byte :=
  if p % 8 = 0 then bitmapFrom 0 ((x.drop (7 * (p / 8))).take 7)
  else packedByte (x.getD (7 * (p / 8) + (p % 8 - 1)) 0)

/-- A packed sequence that `pack` can produce (41_pack.md R123): every byte at most 127; no lone bitmap; the unused
bits of a partial chunk's bitmap zero. -/
abbrev ValidlyPacked (y : List Byte) : Prop :=
  (∀ b ∈ y, b.toNat ≤ 127) ∧ y.length % 8 ≠ 1 ∧
  (2 ≤ y.length % 8 → ∀ i : Fin 7, y.length % 8 - 1 ≤ i.val →
    (y.getD (8 * (y.length / 8)) 0).getLsbD i.val = false)

/-- `ShapeError(CAPACITY, 0, IBUF_CAP, ILEN)` when more bytes were pushed than the input buffer holds
(60_exceptions.md R203). -/
def capacityCheck (s : State) : Option Err :=
  if s.config.ibufCap < s.ilen.toNat then some (shapeErr .capacity s.config.ibufCap s.ilen) else none

/-- The body of `UNPK` (40_unpack.md R110). -/
def bodyUnpk (s : State) : Except Err Commit :=
  match capacityCheck s with
  | some e => .error e
  | none => .ok { out := unpack s.input }

/-- `UNPK` (40_unpack.md R110). -/
def execUnpk (s : State) : Host.Outcome State Fault Refusal := .next (s.dataCommand bodyUnpk)

/-- The body of `PACK` (41_pack.md R120). -/
def bodyPack (s : State) : Except Err Commit :=
  match capacityCheck s with
  | some e => .error e
  | none => .ok { out := pack s.input }

/-- `PACK` (41_pack.md R120); illegal without the encode path (44_control.md R190). -/
def execPack (s : State) : Host.Outcome State Fault Refusal :=
  if s.config.hasEnc then .next (s.dataCommand bodyPack) else .next (s.illegalCommand 0x0003)

end Sys2Proof.Machine
end

