-- ==== Sys2Proof/Machine/Record.lean ====
section
/-! DEFINITION. The record codec (42_record.md): the rule of each field-descriptor kind, the walker, the commands
`RDEC` and `RENC`, and the descriptors as instructions over the hidden registers. -/

namespace Sys2Proof.Machine

/-! ## The rule of each kind

A rule is given the configuration, `ES`, the cursor `NP` and the byte there; it raises, or answers whether the byte was
an unrecognised enumeration byte that was passed. -/

/-- An enumeration kind `e`: look the byte up; unrecognised, it raises when `ES` = 1 and is passed when `ES` = 0
(42_record.md R142, R144, 60_exceptions.md R206). -/
def ruleEnum (e : Kind) (c : Config) (es : Bool) (np : Nat) (b : Byte) : Except Err Bool :=
  match enumDecode c e b with
  | .known _ => .ok false
  | .unrecognized r =>
    if es then
      .error ⟨.unrecognizedEnum, .natural, word np, (kindCode e).setWidth 16, r.setWidth 16⟩
    else .ok true

/-- Kind `U8`: every byte is accepted (42_record.md R135). -/
def ruleU8 (_c : Config) (_es : Bool) (_np : Nat) (_b : Byte) : Except Err Bool := .ok false

/-- Kind `MODE` (42_record.md R136). -/
def ruleMode (c : Config) (es : Bool) (np : Nat) (b : Byte) : Except Err Bool := ruleEnum .mode c es np b

/-- Kind `LED` (42_record.md R137). -/
def ruleLed (c : Config) (es : Bool) (np : Nat) (b : Byte) : Except Err Bool := ruleEnum .led c es np b

/-- Kind `ASSIGN` (42_record.md R138). -/
def ruleAssign (c : Config) (es : Bool) (np : Nat) (b : Byte) : Except Err Bool :=
  ruleEnum .assign c es np b

/-- Kind `BEHAV` (42_record.md R139). -/
def ruleBehav (c : Config) (es : Bool) (np : Nat) (b : Byte) : Except Err Bool :=
  ruleEnum .behav c es np b

/-- Kind `RSVD`: the byte must be 0, whatever `CFG` says (42_record.md R141, R143). -/
def ruleRsvd (_c : Config) (_es : Bool) (np : Nat) (b : Byte) : Except Err Bool :=
  if b = 0 then .ok false else .error ⟨.reservedByte, .natural, word np, 0, b.setWidth 16⟩

/-- The rule of a kind (30_encoding.md R88). -/
def kindRule : Kind → Config → Bool → Nat → Byte → Except Err Bool
  | .u8 => ruleU8
  | .mode => ruleMode
  | .led => ruleLed
  | .assign => ruleAssign
  | .behav => ruleBehav
  | .rsvd => ruleRsvd

/-! ## The walker (42_record.md R142) -/

/-- The first unrecognised offset, once another cell has been met: the lowest is kept. -/
def noteWarn (warn : Option Nat) (np : Nat) (unrecognised : Bool) : Option Nat :=
  match warn, unrecognised with
  | none, true => some np
  | w, _ => w

/-- The walk from the cursor `np` on: ascending offsets, first failure wins (R142). -/
def recWalkFrom (c : Config) (es : Bool) : Nat → Option Nat → List Byte → Except Err (Option Nat)
  | _, warn, [] => .ok warn
  | np, warn, b :: bs =>
    match kindRule (kindAt c np) c es np b with
    | .error e => .error e
    | .ok u => recWalkFrom c es (np + 1) (noteWarn warn np u) bs

/-- `rec_walk(s, es)` (R142): raises, or answers the lowest offset of an unrecognised enumeration byte. -/
def recWalk (c : Config) (es : Bool) (bs : List Byte) : Except Err (Option Nat) :=
  recWalkFrom c es 0 none bs

/-! ## The commands -/

/-- The body of `RDEC` (42_record.md R140). -/
def bodyRdec (s : State) : Except Err Commit :=
  if s.ilen.toNat ≠ natLen then .error (shapeErr .natural natLen s.ilen)
  else match recWalk s.config s.es s.input with
    | .error e => .error e
    | .ok warn => .ok { image := some s.input, warn := warn }

/-- `RDEC` (42_record.md R140). -/
def execRdec (s : State) : Host.Outcome State Fault Refusal := .next (s.dataCommand bodyRdec)

/-- The body of `RENC` (42_record.md R150, R151). -/
def bodyRenc (s : State) : Except Err Commit :=
  match recWalk s.config s.es s.image with
  | .error e => .error e
  | .ok warn => .ok { out := s.image, warn := warn }

/-- `RENC` (42_record.md R150); illegal without the encode path (44_control.md R190). -/
def execRenc (s : State) : Host.Outcome State Fault Refusal :=
  if s.config.hasEnc then .next (s.dataCommand bodyRenc) else .next (s.illegalCommand 0x0005)

/-! ## The descriptors as instructions

The descriptor at the cursor `NP` is applied to the byte there and the cursor advances by one (10_state.md R40); a raise
aborts the running command (00_scope.md R13). Without a running walk there is no cell, hence no operand (log 9). -/

/-- The byte at the cursor of the running walk, with the hidden registers. -/
def State.cell (s : State) : Option (Work × Byte) :=
  match s.work with
  | none => none
  | some w =>
    match w.image[w.np]? with
    | none => none
    | some b => some (w, b)

/-- One cell of the walk under a kind's rule. -/
def State.walkCell (rule : Config → Bool → Nat → Byte → Except Err Bool) (s : State) :
    Host.Outcome State Fault Refusal :=
  match s.cell with
  | none => .refused .noCell
  | some (w, b) =>
    match rule s.config s.es w.np b with
    | .error e => .next (s.errorEntry e)
    | .ok u => .next { s with work := some { w with np := w.np + 1, warn := noteWarn w.warn w.np u } }

/-- The descriptor `U8` (42_record.md R135). -/
def execU8 (s : State) : Host.Outcome State Fault Refusal := s.walkCell ruleU8

/-- The descriptor `MODE` (42_record.md R136). -/
def execMode (s : State) : Host.Outcome State Fault Refusal := s.walkCell ruleMode

/-- The descriptor `LED` (42_record.md R137). -/
def execLed (s : State) : Host.Outcome State Fault Refusal := s.walkCell ruleLed

/-- The descriptor `ASSIGN` (42_record.md R138). -/
def execAssign (s : State) : Host.Outcome State Fault Refusal := s.walkCell ruleAssign

/-- The descriptor `BEHAV` (42_record.md R139). -/
def execBehav (s : State) : Host.Outcome State Fault Refusal := s.walkCell ruleBehav

/-- The descriptor `RSVD` (42_record.md R141). -/
def execRsvd (s : State) : Host.Outcome State Fault Refusal := s.walkCell ruleRsvd

end Sys2Proof.Machine
end

