-- ==== Sys2Proof/Machine/Frame.lean ====
section
/-! DEFINITION. The frame codec (43_frame.md): validation, the commands `FDEC` and `FENC`. -/

namespace Sys2Proof.Machine

/-- `s[a:b]` of a byte sequence (00_scope.md R12). -/
def slice (xs : List Byte) (a b : Nat) : List Byte := (xs.drop a).take (b - a)

/-- `raw[0:12]` as the header registers hold it. -/
def headerOf (raw : List Byte) : Vector Byte 12 := Vector.ofFn (fun i : Fin 12 => raw.getD i.val 0)

/-- The first header byte, from offset `i` on, that does not match its entry of `HDR_CONST` (30_encoding.md R82,
43_frame.md R161 step 2). -/
def headerCheckFrom : Nat → List HdrEntry → List Byte → Option Err
  | i, e :: es, h :: hs =>
    if h &&& e.mask = e.value then headerCheckFrom (i + 1) es hs else some (headerErr i e.value h)
  | _, _, _ => none

/-- The check of twelve header bytes against `HDR_CONST`, ascending offsets. -/
def headerCheck (c : Config) (h : Vector Byte 12) : Option Err :=
  headerCheckFrom 0 c.hdrConst.toList h.toList

/-- `frame_check(raw, L)`: length, header bytes, marker, terminator, in this order (43_frame.md R161). -/
def frameCheck (c : Config) (raw : List Byte) (l : Word) : Option Err :=
  if l.toNat ≠ frameLen then some (shapeErr .frame frameLen l)
  else match headerCheck c (headerOf raw) with
    | some e => some e
    | none =>
      if raw.getD markOff 0 ≠ fmtMark then some (headerErr markOff fmtMark (raw.getD markOff 0))
      else if raw.getD termOff 0 ≠ term then some (headerErr termOff term (raw.getD termOff 0))
      else none

/-- The packed payload of a frame, `raw[13:401]` (30_encoding.md R80). -/
def payload (raw : List Byte) : List Byte := slice raw payOff (payOff + packedLen)

/-- The body of `FDEC` (43_frame.md R160). The two shape tests after the slice cannot fire (R163) and stand as the spec
keeps them. -/
def bodyFdec (s : State) : Except Err Commit :=
  match frameCheck s.config s.input s.ilen with
  | some e => .error e
  | none =>
    if (payload s.input).length ≠ packedLen then
      .error (shapeErr .packed packedLen (word (payload s.input).length))
    else if (unpack (payload s.input)).length ≠ natLen then
      .error (shapeErr .natural natLen (word (unpack (payload s.input)).length))
    else match recWalk s.config s.es (unpack (payload s.input)) with
      | .error e => .error e
      | .ok warn =>
        .ok { hdr := some (headerOf s.input), image := some (unpack (payload s.input)),
              out := unpack (payload s.input), warn := warn }

/-- `FDEC` (43_frame.md R160). -/
def execFdec (s : State) : Host.Outcome State Fault Refusal := .next (s.dataCommand bodyFdec)

/-- `frame_build(header, natural)` (43_frame.md R171). -/
def frameBuild (h : Vector Byte 12) (natural : List Byte) : List Byte :=
  h.toList ++ [fmtMark] ++ pack natural ++ [term]

/-- The body of `FENC` (43_frame.md R170). -/
def bodyFenc (s : State) : Except Err Commit :=
  match headerCheck s.config s.hdr with
  | some e => .error e
  | none =>
    match recWalk s.config s.es s.image with
    | .error e => .error e
    | .ok warn => .ok { out := frameBuild s.hdr s.image, warn := warn }

/-- `FENC` (43_frame.md R170); illegal without the encode path (44_control.md R190). -/
def execFenc (s : State) : Host.Outcome State Fault Refusal :=
  if s.config.hasEnc then .next (s.dataCommand bodyFenc) else .next (s.illegalCommand 0x0007)

end Sys2Proof.Machine
end

