-- ==== Sys2Proof/Machine/Dispatch.lean ====
section
/-! DEFINITION. The meaning of every instruction: one arm per constructor of Instr. -/

namespace Sys2Proof.Machine

def exec (i : Instr) (s : State) : Host.Outcome State Fault Refusal :=
  match i with
  | .nop => Sys2Proof.Machine.execNop s
  | .clr => Sys2Proof.Machine.execClr s
  | .unpk => Sys2Proof.Machine.execUnpk s
  | .pack => Sys2Proof.Machine.execPack s
  | .rdec => Sys2Proof.Machine.execRdec s
  | .renc => Sys2Proof.Machine.execRenc s
  | .fdec => Sys2Proof.Machine.execFdec s
  | .fenc => Sys2Proof.Machine.execFenc s
  | .u8 => Sys2Proof.Machine.execU8 s
  | .mode => Sys2Proof.Machine.execMode s
  | .led => Sys2Proof.Machine.execLed s
  | .assign => Sys2Proof.Machine.execAssign s
  | .behav => Sys2Proof.Machine.execBehav s
  | .rsvd => Sys2Proof.Machine.execRsvd s
  | .push b => Sys2Proof.Machine.execPush b s

end Sys2Proof.Machine
end

