-- ==== Sys2Proof/Machine/Bus.lean ====
section
/-! DEFINITION. The host register map (20_memory.md R61) and the accesses to it that are no instruction: register
writes, register reads and `OBUF` reads (44_control.md R181 to R183), and the accesses the map does not define (R66). -/

namespace Sys2Proof.Machine

/-- A location of the host register map (20_memory.md R61). -/
inductive Loc where
  | cmd | status | cfg | din | ilen | olen
  | errcode | errstage | erroff | errexp | erract | warnoff
  | hdr (i : Fin 12)
  | n (i : Nat)
  | tag (i : Nat)
  | obuf (i : Nat)
  | unmapped
deriving DecidableEq, Repr

/-- The location at a word address (20_memory.md R61). -/
def locate (c : Config) (a : Addr) : Loc :=
  if a.toNat = 0x000 then .cmd
  else if a.toNat = 0x001 then .status
  else if a.toNat = 0x002 then .cfg
  else if a.toNat = 0x003 then .din
  else if a.toNat = 0x004 then .ilen
  else if a.toNat = 0x005 then .olen
  else if a.toNat = 0x006 then .errcode
  else if a.toNat = 0x007 then .errstage
  else if a.toNat = 0x008 then .erroff
  else if a.toNat = 0x009 then .errexp
  else if a.toNat = 0x00A then .erract
  else if a.toNat = 0x00B then .warnoff
  else if h : 0x010 ≤ a.toNat ∧ a.toNat < 0x010 + 12 then .hdr ⟨a.toNat - 0x010, by omega⟩
  else if 0x200 ≤ a.toNat ∧ a.toNat < 0x200 + natLen then .n (a.toNat - 0x200)
  else if 0x400 ≤ a.toNat ∧ a.toNat < 0x400 + natLen then .tag (a.toNat - 0x400)
  else if 0x800 ≤ a.toNat ∧ a.toNat < 0x800 + c.obufCap then .obuf (a.toNat - 0x800)
  else .unmapped

/-- `addr(<loc>)` (30_encoding.md R95): the word address of a location. An unmapped address has no name; it is given
0x00C, one of them. -/
def locAddr : Loc → Addr
  | .cmd => 0x000
  | .status => 0x001
  | .cfg => 0x002
  | .din => 0x003
  | .ilen => 0x004
  | .olen => 0x005
  | .errcode => 0x006
  | .errstage => 0x007
  | .erroff => 0x008
  | .errexp => 0x009
  | .erract => 0x00A
  | .warnoff => 0x00B
  | .hdr i => BitVec.ofNat 12 (0x010 + i.val)
  | .n i => BitVec.ofNat 12 (0x200 + i)
  | .tag i => BitVec.ofNat 12 (0x400 + i)
  | .obuf i => BitVec.ofNat 12 (0x800 + i)
  | .unmapped => 0x00C

/-- The location exists in the map of a block with this configuration. -/
def locMapped (c : Config) : Loc → Bool
  | .n i => decide (i < natLen)
  | .tag i => decide (i < natLen)
  | .obuf i => decide (i < c.obufCap)
  | .unmapped => false
  | .cmd | .status | .cfg | .din | .ilen | .olen => true
  | .errcode | .errstage | .erroff | .errexp | .erract | .warnoff => true
  | .hdr _ => true

/-- The word `TAG[i]` (10_state.md R26). -/
def State.tag (s : State) (i : Nat) : Word :=
  tagWord s.config (kindAt s.config i) (readCell s.config s.n i)

/-- A read answered with a word, no other state changed (44_control.md R182). -/
def State.answer (v : Word) (s : State) : Host.Outcome State Fault Refusal := .next { s with rdata := some v }

/-- `Rd(0x800 + i)`: the byte of the output below `OLEN`; at or above it an unspecified byte, drawn anew for each read
(20_memory.md R68, 44_control.md R183). -/
def State.readObuf (i : Nat) (s : State) : Host.Outcome State Fault Refusal :=
  if i < s.olen.toNat then s.answer ((s.obuf.read i).setWidth 16)
  else State.answer ((Config.unspecifiedByte s.draws).setWidth 16) { s with draws := s.draws + 1 }

/-- `Rd(a)` (44_control.md R182, R183, 20_memory.md R66). -/
def State.busRead (a : Addr) (s : State) : Host.Outcome State Fault Refusal :=
  match locate s.config a with
  | .cmd => .refused (.readOfWriteOnly a)
  | .din => .refused (.readOfWriteOnly a)
  | .status => s.answer s.status
  | .cfg => s.answer s.cfg
  | .ilen => s.answer s.ilen
  | .olen => s.answer s.olen
  | .errcode => s.answer s.errcode
  | .errstage => s.answer s.errstage
  | .erroff => s.answer s.erroff
  | .errexp => s.answer s.errexp
  | .erract => s.answer s.erract
  | .warnoff => s.answer s.warnoff
  | .hdr i => s.answer (s.hdr[i].setWidth 16)
  | .n i => s.answer ((readCell s.config s.n i).setWidth 16)
  | .tag i => s.answer (s.tag i)
  | .obuf i => s.readObuf i
  | .unmapped => .refused (.unmapped a)

/-- `Wr(a, d)` at an address other than those of `CMD` and `DIN` (44_control.md R181, 20_memory.md R66). Writes to the
two ports are instructions and never come here. -/
def State.busWrite (a : Addr) (d : Word) (s : State) : Host.Outcome State Fault Refusal :=
  match locate s.config a with
  | .cfg => .next { s with cfg := cfgWrite d }
  | .hdr i => .next { s with hdr := s.hdr.set i (d.setWidth 8) }
  | .n i => .next { s with n := writeCell s.config s.n i (d.setWidth 8) }
  | .unmapped => .refused (.unmapped a)
  | .cmd | .din => .refused (.unmapped a)
  | .status | .ilen | .olen => .refused (.writeOfReadOnly a)
  | .errcode | .errstage | .erroff | .errexp | .erract | .warnoff => .refused (.writeOfReadOnly a)
  | .tag _ => .refused (.writeOfReadOnly a)
  | .obuf _ => .refused (.writeOfReadOnly a)

end Sys2Proof.Machine
end

