-- ==== Sys2Proof/Machine/Fetch.lean ====
section
/-! DEFINITION. What the block does next: the pending host event (44_control.md R189), or, while a command is unfolded
over the hidden registers (10_state.md R40, R41), its next byte, its next cell or its commit. -/

namespace Sys2Proof.Machine

/-- What a step does: run an instruction on a state, or a transition that is no row of the opcode table. -/
inductive Fetched where
  | run (i : Instr) (s : State)
  | other (o : Host.Outcome State Fault Refusal)

/-- The transition of a host event (44_control.md R189); `s` is the state with the event taken. -/
def State.fetchEvent (e : HostEvent) (s : State) : Fetched :=
  match e with
  | .reset => .other (.next s.onReset)
  | .wr a d =>
    match decode (.buswr a d) with
    | .ok i => .run i s
    | .error _ =>
      if a = 0x000 then
        match decode (.cmd d) with
        | .ok i => .run i s
        | .error _ => .other (.next (s.illegalCommand d))
      else .other (s.busWrite a d)
  | .rd a => .other (s.busRead a)

/-! ## A command unfolded (10_state.md R40, R41; log 8)

Each pass advances one cursor by one per byte consumed, produced or walked, and a raise inside a pass records that
cursor in `ERROFF` (R40). -/

/-- What a command commits when its last pass is over (40_unpack.md R110, 41_pack.md R120, 42_record.md R140, R150,
43_frame.md R160, R170). -/
def workCommit (w : Work) : Commit :=
  match w.cmd with
  | .unpk | .pack => { out := w.line.out }
  | .rdec => { image := some w.image, warn := w.warn }
  | .renc | .fenc => { out := w.line.out, warn := w.warn }
  | .fdec => { hdr := some w.hdr, image := some w.image, out := w.line.out, warn := w.warn }

/-- The end of the last pass. -/
def State.finish (s : State) (w : Work) : State := s.commit (workCommit w)

/-- The next pass. -/
def State.enter (s : State) (p : Phase) (w : Work) : State := { s with work := some { w with phase := p } }

/-- One frame byte `b` arrives at `IP`, under the checks of 43_frame.md R161 steps 2 to 4: a header byte is staged, the
marker and the terminator are passed over, a payload byte goes through the unpacker. -/
def Work.takeFrameByte (c : Config) (w : Work) (b : Byte) : Except Err Work :=
  if h : w.line.ip < 12 then
    if b &&& c.hdrConst[w.line.ip].mask = c.hdrConst[w.line.ip].value then
      .ok { w with hdr := w.hdr.set w.line.ip b, line := w.line.skip }
    else .error (headerErr w.line.ip c.hdrConst[w.line.ip].value b)
  else if w.line.ip = markOff then
    if b = fmtMark then .ok { w with line := w.line.skip } else .error (headerErr markOff fmtMark b)
  else if w.line.ip = termOff then
    if b = term then .ok { w with line := w.line.skip } else .error (headerErr termOff term b)
  else .ok { w with line := w.line.consume b }

/-- One input byte `b` arrives at `IP`. The commands that read no input never come here. -/
def Work.takeByte (c : Config) (w : Work) (b : Byte) : Except Err Work :=
  match w.cmd with
  | .unpk => .ok { w with line := w.line.consume b }
  | .pack | .rdec => .ok { w with image := w.image ++ [b], line := w.line.skip }
  | .fdec => w.takeFrameByte c b
  | .renc | .fenc => .ok w

/-- `IP` at work: one byte of `IBUF[0:ILEN]`, or, at `ILEN`, what follows the input. -/
def State.takeStep (s : State) (w : Work) : State :=
  if w.line.ip < s.ilen.toNat then
    match w.takeByte s.config (s.ibuf.read w.line.ip) with
    | .error e => s.errorEntry e
    | .ok w' => { s with work := some w' }
  else match w.cmd with
    | .unpk => s.finish w
    | .pack => s.enter .emit w
    | .fdec => s.enter .walk { w with image := w.line.out }
    | .rdec | .renc | .fenc => s.enter .walk w

/-- `OP` at work on the first 13 bytes of a frame: `HDR[OP]`, checked (43_frame.md R170), then the marker. -/
def State.headStep (s : State) (w : Work) : State :=
  if h : w.line.op < 12 then
    if w.hdr[w.line.op] &&& s.config.hdrConst[w.line.op].mask = s.config.hdrConst[w.line.op].value then
      { s with work := some { w with line := w.line.emit w.hdr[w.line.op] } }
    else s.errorEntry (headerErr w.line.op s.config.hdrConst[w.line.op].value w.hdr[w.line.op])
  else s.enter .walk { w with line := w.line.emit fmtMark }

/-- The end of a walk: the commit of a decode, the output of an encode. -/
def State.walkEnd (s : State) (w : Work) : State :=
  match w.cmd with
  | .unpk | .pack | .rdec | .fdec => s.finish w
  | .renc | .fenc => s.enter .emit w

/-- Where `OP` ends: the length of the output (41_pack.md R122, 42_record.md R150, 43_frame.md R171). The commands that
produce no byte after their input or walk have none. -/
def Work.outLen (w : Work) : Nat :=
  match w.cmd with
  | .pack => plen w.image.length
  | .renc => natLen
  | .fenc => frameLen
  | .unpk | .rdec | .fdec => 0

/-- The line registers after the next byte produced: of `pack(x)` (41_pack.md R121), of the image (42_record.md R150), or of the frame after its
marker (43_frame.md R171). -/
def Work.emitLine (w : Work) : Line :=
  match w.cmd with
  | .pack => w.line.emitPacked (packedAt w.image w.line.op)
  | .renc => w.line.emit (w.image.getD w.line.op 0)
  | .fenc =>
    if w.line.op < termOff then w.line.emitPacked (packedAt w.image (w.line.op - payOff))
    else w.line.emit term
  | .unpk | .rdec | .fdec => w.line

/-- `OP` at work: one byte of output, or, at the end of the output, the commit. -/
def State.emitStep (s : State) (w : Work) : State :=
  if w.line.op < w.outLen then { s with work := some { w with line := w.emitLine } } else s.finish w

/-- The next step of a command that is under way: the walker takes the descriptor of the cell at `NP` from `SCHEMA`. -/
def State.fetchWork (s : State) (w : Work) : Fetched :=
  match w.phase with
  | .take => .other (.next (s.takeStep w))
  | .head => .other (.next (s.headStep w))
  | .emit => .other (.next (s.emitStep w))
  | .walk =>
    if w.np < natLen then
      match decode (.fdesc (kindCode (kindAt s.config w.np))) with
      | .ok i => .run i s
      | .error _ => .other (.refused (.unusedKind (kindCode (kindAt s.config w.np))))
    else .other (.next (s.walkEnd w))

/-- The state with an event taken off the list; the read bus is empty unless the event turns out to be a read. -/
def State.take (rest : List HostEvent) (s : State) : State := { s with events := rest, rdata := none }

/-- What the block does next. With no command under way and no event pending it does nothing (10_state.md R20,
log 3). -/
def State.fetch (s : State) : Fetched :=
  match s.work with
  | some w => s.fetchWork w
  | none =>
    match s.events with
    | [] => .other (.next s)
    | e :: rest => State.fetchEvent e (s.take rest)

/-! ## The start of an unfolded command -/

/-- The hidden registers at the start of a command: every cursor, `K` and `BM` at 0 (10_state.md R40, R41). -/
def Work.start (cmd : PassCmd) (phase : Phase) (h : Vector Byte 12) (image : List Byte) : Work where
  cmd   := cmd
  phase := phase
  line  := Line.start
  hdr   := h
  image := image
  np    := 0
  warn  := none

/-- The check a command makes before its first pass, on the state after the prologue: an error of length, or the hidden
registers set for the pass. -/
def startWork (cmd : PassCmd) (s : State) : Except Err Work :=
  match cmd with
  | .unpk | .pack =>
    match capacityCheck s with
    | some e => .error e
    | none => .ok (Work.start cmd .take s.hdr [])
  | .rdec =>
    if s.ilen.toNat ≠ natLen then .error (shapeErr .natural natLen s.ilen)
    else .ok (Work.start .rdec .take s.hdr [])
  | .fdec =>
    if s.ilen.toNat ≠ frameLen then .error (shapeErr .frame frameLen s.ilen)
    else .ok (Work.start .fdec .take s.hdr [])
  | .renc => .ok (Work.start .renc .walk s.hdr s.image)
  | .fenc => .ok (Work.start .fenc .head s.hdr s.image)

/-- A command begun and not yet carried through: its prologue and its checks done; either the error entry, or the hidden
registers set for its first pass. -/
def State.begin (cmd : PassCmd) (s : State) : State :=
  match startWork cmd s.prologue with
  | .error e => s.prologue.errorEntry e
  | .ok w => { s.prologue with work := some w }

/-- The instruction that a command unfolded in passes is. -/
def passInstr : PassCmd → Instr
  | .unpk => .unpk
  | .pack => .pack
  | .rdec => .rdec
  | .renc => .renc
  | .fdec => .fdec
  | .fenc => .fenc

/-! ## Placing an instruction where the next step takes it -/

/-- The first cell of the schema whose kind code is `k`; 339, past the last cell, if there is none. -/
def firstCell (c : Config) (k : BitVec 3) : Nat :=
  ((List.range natLen).find? (fun i => kindCode (kindAt c i) == k)).getD natLen

/-- A code placed so that the next step runs it: a command word or a host write as the next host event; a descriptor by
a record walk over `N` (`RENC`'s) whose cursor stands at the first cell of that kind (log 2). -/
def State.placeCode (c : Code) (s : State) : State :=
  match c with
  | .cmd w => { s with work := none, events := .wr 0x000 w :: s.events }
  | .buswr a d => { s with work := none, events := .wr a d :: s.events }
  | .fdesc k =>
    { s with work := some { Work.start .renc .walk s.hdr s.image with np := firstCell s.config k } }

end Sys2Proof.Machine
end

