-- ==== Sys2Proof/Machine/Script.lean ====
section
/-! DEFINITION. The host script syntax (30_encoding.md R95, R96) as functions that produce host events. -/

namespace Sys2Proof.Machine

/-- `WR <loc>, <value>` (R95). -/
def scriptWr (l : Loc) (v : Word) : HostEvent := .wr (locAddr l) v

/-- `RD <loc>` (R95). -/
def scriptRd (l : Loc) : HostEvent := .rd (locAddr l)

/-- `PUSH <byte>` (R95): the same event as `WR DIN, <byte>`. -/
def scriptPush (b : Byte) : HostEvent := .wr 0x003 (b.setWidth 16)

/-- `CMD <mnemonic>` (R95), with the opcode of 30_encoding.md R90: the same event as `WR CMD, <opcode>`. -/
def scriptCmd (opcode : Word) : HostEvent := .wr 0x000 opcode

/-- `PUSHS b0 b1 ... bn` (R96). -/
def scriptPushs (bs : List Byte) : List HostEvent := bs.map scriptPush

/-- `LOAD b0 b1 ... bn` (R96): the source's `read_exact_bytes` (00_scope.md R7). -/
def scriptLoad (bs : List Byte) : List HostEvent := scriptCmd 0x0001 :: scriptPushs bs

/-- `DRAIN n` (R96): the source's `write_exact_bytes` (00_scope.md R7). -/
def scriptDrain (len : Nat) : List HostEvent := (List.range len).map (fun i => scriptRd (.obuf i))

/-- `SETHDR b0 ... b11` (R96). -/
def scriptSetHdr (h : Vector Byte 12) : List HostEvent :=
  (List.finRange 12).map (fun i => scriptWr (.hdr i) (h[i].setWidth 16))

/-- `SET <cell>, v` (R96), the cell given by its schema name (R95). -/
def scriptSet (c : Config) (name : CellName) (v : Word) : HostEvent := scriptWr (.n (cellOffset c name)) v

/-- `EXPECT_OK` (R96): reads with the words they are expected to return. -/
def scriptExpectOk : List (HostEvent × Word) := [(scriptRd .status, 0x0001), (scriptRd .errcode, 0)]

/-- `EXPECT_WARN off` (R96). -/
def scriptExpectWarn (off : Word) : List (HostEvent × Word) :=
  [(scriptRd .status, 0x0005), (scriptRd .errcode, 0), (scriptRd .warnoff, off)]

/-- `EXPECT_ERR code, stage, off, exp, act` (R96). -/
def scriptExpectErr (code stage off exp act : Word) : List (HostEvent × Word) :=
  [(scriptRd .status, 0x0002), (scriptRd .errcode, code), (scriptRd .errstage, stage),
   (scriptRd .erroff, off), (scriptRd .errexp, exp), (scriptRd .erract, act)]

end Sys2Proof.Machine
end

