-- ==== Sys2Proof/Machine/View.lean ====
section
/-! DEFINITION. The structured record (42_record.md R130, R131, R134) as a view of the record register file, and the
names of the cells (10_state.md R24). -/

namespace Sys2Proof.Machine

/-- A slider or a knob (R130). -/
structure Analog where
  type : Byte
  cc   : Byte
  min  : Byte
  max  : Byte
deriving DecidableEq, Repr

/-- A button (R130). -/
structure Button where
  type     : EnumVal
  behavior : EnumVal
  cc       : Byte
  off      : Byte
  on       : Byte
deriving DecidableEq, Repr

/-- The common part (R130). -/
structure CommonPart where
  channel : Byte
  mode    : EnumVal
  led     : EnumVal
deriving DecidableEq, Repr

/-- A controller group (R130); `record` is the button the spec calls `rec`. -/
structure ControllerGroup where
  slider : Analog
  knob   : Analog
  solo   : Button
  mute   : Button
  record : Button
deriving DecidableEq, Repr

/-- The transport block (R130); `record` is the button the spec calls `rec`. -/
structure Transport where
  channel     : Byte
  trackPrev   : Button
  trackNext   : Button
  cycle       : Button
  markerSet   : Button
  markerPrev  : Button
  markerNext  : Button
  rewind      : Button
  fastForward : Button
  stop        : Button
  play        : Button
  record      : Button
  custom      : Vector Byte 5
deriving DecidableEq, Repr

/-- The decoded structured view of a record (R130). -/
structure SettingsRecord where
  common    : CommonPart
  group     : Vector ControllerGroup 8
  transport : Transport
deriving DecidableEq, Repr

/-! ## From the cells to the record (R131) -/

/-- The byte of the cell with a given name. -/
def namedByte (c : Config) (m : Memory) (name : CellName) : Byte := readCell c m (cellOffset c name)

/-- The enumerated value of the cell with a given name. -/
def namedEnum (c : Config) (m : Memory) (name : CellName) : EnumVal :=
  enumDecode c (nameKind name) (namedByte c m name)

/-- A button whose cells have the names `at f`. -/
def viewButton (c : Config) (m : Memory) (cell : ButtonField → CellName) : Button where
  type     := namedEnum c m (cell .type)
  behavior := namedEnum c m (cell .behavior)
  cc       := namedByte c m (cell .cc)
  off      := namedByte c m (cell .off)
  on       := namedByte c m (cell .on)

/-- A slider or knob whose cells have the names `cell f`. -/
def viewAnalog (c : Config) (m : Memory) (cell : AnalogField → CellName) : Analog where
  type := namedByte c m (cell .type)
  cc   := namedByte c m (cell .cc)
  min  := namedByte c m (cell .min)
  max  := namedByte c m (cell .max)

/-- The controller group `g`. -/
def viewGroup (c : Config) (m : Memory) (g : Nat) : ControllerGroup where
  slider := viewAnalog c m (fun f => .group g (.slider f))
  knob   := viewAnalog c m (fun f => .group g (.knob f))
  solo   := viewButton c m (fun f => .group g (.button .solo f))
  mute   := viewButton c m (fun f => .group g (.button .mute f))
  record := viewButton c m (fun f => .group g (.button .record f))

/-- The transport block. -/
def viewTransport (c : Config) (m : Memory) : Transport where
  channel     := namedByte c m .transportChannel
  trackPrev   := viewButton c m (.transport .trackPrev)
  trackNext   := viewButton c m (.transport .trackNext)
  cycle       := viewButton c m (.transport .cycle)
  markerSet   := viewButton c m (.transport .markerSet)
  markerPrev  := viewButton c m (.transport .markerPrev)
  markerNext  := viewButton c m (.transport .markerNext)
  rewind      := viewButton c m (.transport .rewind)
  fastForward := viewButton c m (.transport .fastForward)
  stop        := viewButton c m (.transport .stop)
  play        := viewButton c m (.transport .play)
  record      := viewButton c m (.transport .record)
  custom      := Vector.ofFn (fun i : Fin 5 => namedByte c m (.custom i.val))

/-- `view(N)` (R131). -/
def view (c : Config) (m : Memory) : SettingsRecord where
  common    := { channel := namedByte c m .commonChannel,
                 mode := namedEnum c m .commonMode, led := namedEnum c m .commonLed }
  group     := Vector.ofFn (fun g : Fin 8 => viewGroup c m g.val)
  transport := viewTransport c m

/-! ## From the record to the image (R131) -/

/-- The byte of a button's cell; the reserved one is 0. -/
def buttonByte (c : Config) (b : Button) : ButtonField → Byte
  | .type => enumEncode c b.type
  | .behavior => enumEncode c b.behavior
  | .cc => b.cc
  | .off => b.off
  | .on => b.on
  | .rsvd => 0

/-- The byte of a slider's or knob's cell. -/
def analogByte (x : Analog) : AnalogField → Byte
  | .type => x.type
  | .cc => x.cc
  | .min => x.min
  | .max => x.max

/-- The button of a group. -/
def ControllerGroup.button (x : ControllerGroup) : GroupButton → Button
  | .solo => x.solo
  | .mute => x.mute
  | .record => x.record

/-- The byte of a group's slot; the reserved ones are 0. -/
def groupByte (c : Config) (x : ControllerGroup) : Slot → Byte
  | .slider f => analogByte x.slider f
  | .knob f => analogByte x.knob f
  | .button b f => buttonByte c (x.button b) f
  | .rsvd _ => 0

/-- The button of the transport block. -/
def Transport.button (t : Transport) : TransportButton → Button
  | .trackPrev => t.trackPrev
  | .trackNext => t.trackNext
  | .cycle => t.cycle
  | .markerSet => t.markerSet
  | .markerPrev => t.markerPrev
  | .markerNext => t.markerNext
  | .rewind => t.rewind
  | .fastForward => t.fastForward
  | .stop => t.stop
  | .play => t.play
  | .record => t.record

/-- The byte of a named cell of a record; the reserved ones are 0, and there is no ninth group and no sixth slot. -/
def fieldByte (c : Config) (r : SettingsRecord) : CellName → Byte
  | .commonChannel => r.common.channel
  | .commonMode => enumEncode c r.common.mode
  | .commonLed => enumEncode c r.common.led
  | .group g slot => if h : g < 8 then groupByte c r.group[g] slot else 0
  | .transportChannel => r.transport.channel
  | .transport b f => buttonByte c (r.transport.button b) f
  | .custom i => if h : i < 5 then r.transport.custom[i] else 0
  | .trail _ => 0

/-- `image(r)` (R131). -/
def recordImage (c : Config) (r : SettingsRecord) : List Byte :=
  (List.range natLen).map (fun i => fieldByte c r (cellName c i))

/-! ## Well-formed records (R134) -/

/-- An enumerated value of enumeration `e` that is a variant of `e`, or a byte that is the code of no variant of `e`
(00_scope.md R14). -/
abbrev enumOk (c : Config) (e : Kind) : EnumVal → Prop
  | .known v => v ∈ e.variants
  | .unrecognized b => ∀ v ∈ e.variants, c.enumCode.code v ≠ b

/-- A button whose enumerated fields are well-formed. -/
abbrev buttonOk (c : Config) (b : Button) : Prop := enumOk c .assign b.type ∧ enumOk c .behav b.behavior

/-- A well-formed record (R134). -/
abbrev recordOk (c : Config) (r : SettingsRecord) : Prop :=
  enumOk c .mode r.common.mode ∧ enumOk c .led r.common.led ∧
  (∀ g : Fin 8, buttonOk c r.group[g].solo ∧ buttonOk c r.group[g].mute ∧ buttonOk c r.group[g].record) ∧
  ∀ b ∈ transportButtons, buttonOk c (r.transport.button b)

/-! ## Names as the spec writes them (10_state.md R24) -/

/-- Name of a slider's or knob's cell. -/
def AnalogField.path : AnalogField → String
  | .type => "type"
  | .cc => "cc"
  | .min => "min"
  | .max => "max"

/-- Name of a button's cell. -/
def ButtonField.path : ButtonField → String
  | .type => "type"
  | .behavior => "behavior"
  | .cc => "cc"
  | .off => "off"
  | .on => "on"
  | .rsvd => "rsvd"

/-- Name of a group's button. -/
def GroupButton.path : GroupButton → String
  | .solo => "solo"
  | .mute => "mute"
  | .record => "rec"

/-- Name of a transport button. -/
def TransportButton.path : TransportButton → String
  | .trackPrev => "track_prev"
  | .trackNext => "track_next"
  | .cycle => "cycle"
  | .markerSet => "marker_set"
  | .markerPrev => "marker_prev"
  | .markerNext => "marker_next"
  | .rewind => "rewind"
  | .fastForward => "fast_forward"
  | .stop => "stop"
  | .play => "play"
  | .record => "rec"

/-- Name of a group's slot. -/
def Slot.path : Slot → String
  | .slider f => "slider." ++ AnalogField.path f
  | .knob f => "knob." ++ AnalogField.path f
  | .button b f => GroupButton.path b ++ "." ++ ButtonField.path f
  | .rsvd i => "rsvd" ++ toString i.val

/-- Name of a cell. -/
def CellName.path : CellName → String
  | .commonChannel => "common.channel"
  | .commonMode => "common.mode"
  | .commonLed => "common.led"
  | .group g slot => "group[" ++ toString g ++ "]." ++ Slot.path slot
  | .transportChannel => "transport.channel"
  | .transport b f => "transport." ++ TransportButton.path b ++ "." ++ ButtonField.path f
  | .custom i => "transport.custom[" ++ toString i ++ "]"
  | .trail i => "transport.trail[" ++ toString i ++ "]"

end Sys2Proof.Machine
end

