-- ==== Sys2Proof/Safety.lean ====
section
/-! DEFINITION. The invariant of the machine, from the rules that say what a register can hold (10_state.md), and what
counts as a safe step. -/

namespace Sys2Proof.Machine

/-- `N` (10_state.md R22, R23): canonical, 339 cells, nothing stored in a hardwired cell. -/
abbrev State.NOk (s : State) : Prop :=
  Memory.wf s.n ∧ ∀ x ∈ s.n, x.1 < natLen ∧ kindAt s.config x.1 ≠ .rsvd

/-- `IBUF` (R38): canonical, `IBUF_CAP` cells. -/
abbrev State.IbufOk (s : State) : Prop := Memory.wf s.ibuf ∧ ∀ x ∈ s.ibuf, x.1 < s.config.ibufCap

/-- `OBUF` (R39): canonical, `OBUF_CAP` cells. -/
abbrev State.ObufOk (s : State) : Prop := Memory.wf s.obuf ∧ ∀ x ∈ s.obuf, x.1 < s.config.obufCap

/-- `STATUS` (R28): `IDLE`, `OK`, `ERR`, or `OK` with `WARN`. -/
abbrev State.StatusOk (s : State) : Prop :=
  s.status = 0 ∨ s.status = 1 ∨ s.status = 2 ∨ s.status = 5

/-- The error registers (R32, R33): the codes that occur, `ERRCODE` ≠ 0 exactly when `STATE` = `ERR`, and all of them 0
when there is no error. -/
abbrev State.ErrOk (s : State) : Prop :=
  s.errcode.toNat ≤ 5 ∧ s.errstage.toNat ≤ 4 ∧ (s.errcode ≠ 0 ↔ s.status = 2) ∧
  (s.errcode = 0 → s.errstage = 0 ∧ s.erroff = 0 ∧ s.errexp = 0 ∧ s.erract = 0)

/-- `WARNOFF` (R37): a natural offset, and 0 unless `WARN` = 1. -/
abbrev State.WarnOk (s : State) : Prop := s.warnoff.toNat < natLen ∧ (s.status ≠ 5 → s.warnoff = 0)

/-- `OLEN` (R31): at most `OBUF_CAP`, and 0 unless the latest command succeeded (60_exceptions.md R210). -/
abbrev State.OlenOk (s : State) : Prop :=
  s.olen.toNat ≤ s.config.obufCap ∧ (s.status = 0 ∨ s.status = 2 → s.olen = 0)

/-- The cursors of a running command (10_state.md R40): `IP` up to `ILEN`, `OP` up to `OBUF_CAP` and as many bytes
staged, `NP` up to 339 and past the warning (42_record.md R142). -/
abbrev State.CursorsOk (s : State) (w : Work) : Prop :=
  w.line.ip ≤ s.ilen.toNat ∧ w.line.op ≤ s.config.obufCap ∧ w.line.out.length = w.line.op ∧
  w.np ≤ natLen ∧ ∀ i ∈ w.warn, i < w.np

/-- `K` (10_state.md R41) and `OP` after the unpacker's first `p` bytes. -/
abbrev Work.Unpacked (w : Work) (p : Nat) : Prop := w.line.k.toNat = p % 8 ∧ w.line.op = ulen p

/-- `K` (10_state.md R41) after the packer's first `p` bytes. -/
abbrev Work.Packed (w : Work) (p : Nat) : Prop := w.line.k.toNat = p % 8

/-- Where the cursors stand and what is staged in each pass of each command (10_state.md R40, R41): a cursor whose turn
has not come is 0, one whose turn is over stands at its end. A pass that is not listed is none of its command's. -/
def State.PassOk (s : State) (w : Work) : Prop :=
  match w.phase, w.cmd with
  | .take, .unpk => s.ilen.toNat ≤ s.config.ibufCap ∧ w.np = 0 ∧ w.Unpacked w.line.ip
  | .take, .pack =>
    s.ilen.toNat ≤ s.config.ibufCap ∧ w.np = 0 ∧ w.line.op = 0 ∧ w.Packed 0 ∧ w.image.length = w.line.ip
  | .take, .rdec => s.ilen.toNat = natLen ∧ w.np = 0 ∧ w.line.op = 0 ∧ w.image.length = w.line.ip
  | .take, .fdec => s.ilen.toNat = frameLen ∧ w.np = 0 ∧ w.Unpacked (min w.line.ip termOff - payOff)
  | .head, .fenc =>
    w.line.ip = 0 ∧ w.np = 0 ∧ w.line.op ≤ markOff ∧ w.Packed 0 ∧ w.image.length = natLen
  | .walk, .rdec => s.ilen.toNat = natLen ∧ w.line.ip = natLen ∧ w.line.op = 0 ∧ w.image.length = natLen
  | .walk, .fdec =>
    s.ilen.toNat = frameLen ∧ w.line.ip = frameLen ∧ w.line.op = natLen ∧ w.image.length = natLen
  | .walk, .renc => w.line.ip = 0 ∧ w.line.op = 0 ∧ w.image.length = natLen
  | .walk, .fenc => w.line.ip = 0 ∧ w.line.op = payOff ∧ w.Packed 0 ∧ w.image.length = natLen
  | .emit, .pack =>
    s.ilen.toNat ≤ s.config.ibufCap ∧ w.line.ip = s.ilen.toNat ∧ w.np = 0 ∧ w.image.length = w.line.ip ∧
    w.line.op ≤ plen w.image.length ∧ w.Packed w.line.op
  | .emit, .renc => w.line.ip = 0 ∧ w.np = natLen ∧ w.image.length = natLen ∧ w.line.op ≤ natLen
  | .emit, .fenc =>
    w.line.ip = 0 ∧ w.np = natLen ∧ w.image.length = natLen ∧ payOff ≤ w.line.op ∧ w.line.op ≤ frameLen ∧
    w.Packed (min w.line.op termOff - payOff)
  | _, _ => False

/-- The hidden registers (10_state.md R41): dead, or those of a command whose prologue is done (log 8). -/
def State.WorkOk (s : State) : Prop := ∀ w ∈ s.work, s.status = 0 ∧ s.CursorsOk w ∧ s.PassOk w

/-- The invariant of the machine. -/
structure State.Inv (s : State) : Prop where
  config : s.config.Valid
  n      : s.NOk
  ibuf   : s.IbufOk
  obuf   : s.ObufOk
  /-- `CFG[15:1]` read 0 (R29). -/
  cfg    : s.cfg.toNat ≤ 1
  status : s.StatusOk
  err    : s.ErrOk
  warn   : s.WarnOk
  olen   : s.OlenOk
  work   : s.WorkOk

/-- The refusals that 20_memory.md R66 tells a model to make. -/
def Refusal.isBusRefusal : Refusal → Bool
  | .unmapped _ => true
  | .readOfWriteOnly _ => true
  | .writeOfReadOnly _ => true
  | _ => false

/-- A safe outcome: a next state that keeps the invariant, or a refusal of R66. -/
def SafeOutcome (o : Host.Outcome State Fault Refusal) : Prop :=
  match o with
  | .next s => s.Inv
  | .fault _ => False
  | .refused r => r.isBusRefusal = true

/-! ## The terms the claims use -/

/-- What no data command writes (44_control.md R186): its inputs, the configuration and the model's own fields. -/
def State.Kept (s t : State) : Prop :=
  t.config = s.config ∧ t.cfg = s.cfg ∧ t.ilen = s.ilen ∧ t.ibuf = s.ibuf ∧
  t.events = s.events ∧ t.rdata = s.rdata ∧ t.draws = s.draws

/-- The result registers after a success that passed the first unrecognised enumeration byte at `warn` (10_state.md
R28, R32 to R37). -/
def State.Succeeded (t : State) (warn : Option Nat) : Prop :=
  (warn = none → t.status = 0x0001 ∧ t.warnoff = 0) ∧
  (∀ i, warn = some i → t.status = 0x0005 ∧ t.warnoff = word i) ∧
  t.errcode = 0 ∧ t.errstage = 0 ∧ t.erroff = 0 ∧ t.errexp = 0 ∧ t.erract = 0

/-- `t` is `s` after an error with these register values: 60_exceptions.md R210, and nothing else changed. -/
def State.Failed (s t : State) (code stage off exp act : Word) : Prop :=
  t.errcode = code ∧ t.errstage = stage ∧ t.erroff = off ∧ t.errexp = exp ∧ t.erract = act ∧
  t.status = 0x0002 ∧ t.warnoff = 0 ∧ t.olen = 0 ∧
  t.n = s.n ∧ t.hdr = s.hdr ∧ t.obuf = s.obuf ∧ t.work = none ∧ s.Kept t

/-- The four enumeration kinds (30_encoding.md R87). -/
def isEnum : Kind → Bool
  | .mode | .led | .assign | .behav => true
  | .u8 | .rsvd => false

/-- The byte `b` of a reserved cell is not 0 (42_record.md R141). -/
abbrev ReservedNonzero (c : Config) (i : Nat) (b : Byte) : Prop := kindAt c i = .rsvd ∧ b ≠ 0

/-- The byte `b` of an enumeration cell is the code of no variant (42_record.md R132). -/
abbrev Unrecognised (c : Config) (i : Nat) (b : Byte) : Prop :=
  isEnum (kindAt c i) = true ∧ ∀ v ∈ (kindAt c i).variants, c.enumCode.code v ≠ b

/-- The walk raises `e` at cell `i` holding `b` (42_record.md R142). -/
def RaisesAt (c : Config) (es : Bool) (i : Nat) (b : Byte) (e : Err) : Prop :=
  (ReservedNonzero c i b ∧ e = ⟨.reservedByte, .natural, word i, 0, b.setWidth 16⟩) ∨
  (es = true ∧ Unrecognised c i b ∧
    e = ⟨.unrecognizedEnum, .natural, word i, (kindCode (kindAt c i)).setWidth 16, b.setWidth 16⟩)

/-- The walk raises at cell `i` holding `b`. -/
abbrev Rejected (c : Config) (es : Bool) (i : Nat) (b : Byte) : Prop :=
  ReservedNonzero c i b ∨ (es = true ∧ Unrecognised c i b)

/-- `warn` is the lowest of the first `len` offsets whose byte is unrecognised, or none of them is. -/
def FirstUnrecognised (c : Config) (byte : Nat → Byte) (len : Nat) (warn : Option Nat) : Prop :=
  (warn = none → ∀ i < len, ¬ Unrecognised c i (byte i)) ∧
  (∀ i, warn = some i → i < len ∧ Unrecognised c i (byte i) ∧ ∀ j < i, ¬ Unrecognised c j (byte j))

/-- The natural byte at offset `j` of a frame (30_encoding.md R81, R92). -/
def frameNatural (byte : Nat → Byte) (j : Nat) : Byte :=
  byte (14 + 8 * (j / 7) + j % 7) ||| (((byte (13 + 8 * (j / 7)) >>> (j % 7)) &&& 1) <<< 7)

/-- A header byte matches its entry of `HDR_CONST` (30_encoding.md R82). -/
abbrev HeaderMatches (c : Config) (byte : Nat → Byte) (i : Fin 12) : Prop :=
  byte i.val &&& c.hdrConst[i].mask = c.hdrConst[i].value

/-- The header registers by index. -/
def State.hdrByte (s : State) (i : Nat) : Byte := s.hdr.toList.getD i 0

/-- The cursor that a running command is advancing (10_state.md R40). -/
def Work.cursor (w : Work) : Nat :=
  match w.phase with
  | .take => w.line.ip
  | .head | .emit => w.line.op
  | .walk => w.np

/-- `w'` is `w` one step on, `len` bytes being the input (10_state.md R40): `IP` has advanced by one if a byte was there
to consume, `NP` by one if a cell was there to walk, `OP` by one if a byte was produced, and no cursor else. -/
def Work.Advanced (w w' : Work) (len : Nat) : Prop :=
  w'.cmd = w.cmd ∧
  w'.line.ip = w.line.ip + (if w.phase = .take ∧ w.line.ip < len then 1 else 0) ∧
  w'.np = w.np + (if w.phase = .walk ∧ w.np < natLen then 1 else 0) ∧
  ∃ bytes : List Byte, w'.line.out = w.line.out ++ bytes ∧ w'.line.op = w.line.op + bytes.length ∧
    bytes.length ≤ 1 ∧ (w.phase = .walk → bytes = []) ∧ (w.phase = .head ∨ w.phase = .emit → bytes.length = 1)

/-- The commands that read `IBUF[0:ILEN]` (10_state.md R38). -/
def readsInput : PassCmd → Bool
  | .unpk | .pack | .rdec | .fdec => true
  | .renc | .fenc => false

/-- The commands that walk the 339 cells (42_record.md R142). -/
def walksCells : PassCmd → Bool
  | .rdec | .renc | .fdec | .fenc => true
  | .unpk | .pack => false

/-- The next event is a read of `a`, and the step answers it with `v` and changes nothing else. -/
def State.ReadsAs (s : State) (a : Addr) (v : Word) : Prop :=
  ∀ rest, s.events = .rd a :: rest → step s = .next { s with events := rest, rdata := some v }

/-- The six data commands (44_control.md R186). -/
def isDataCommand : Instr → Bool
  | .unpk | .pack | .rdec | .renc | .fdec | .fenc => true
  | .nop | .clr | .push _ => false
  | .u8 | .mode | .led | .assign | .behav | .rsvd => false

/-- An address of the map that a host can read (20_memory.md R61). -/
def ReadableAddr (c : Config) (a : Nat) : Prop :=
  a = 0x001 ∨ a = 0x002 ∨ (0x004 ≤ a ∧ a ≤ 0x00B) ∨ (0x010 ≤ a ∧ a ≤ 0x01B) ∨
  (0x200 ≤ a ∧ a ≤ 0x352) ∨ (0x400 ≤ a ∧ a ≤ 0x552) ∨ (0x800 ≤ a ∧ a < 0x800 + c.obufCap)

/-- An address of the map that a host can write (20_memory.md R61). -/
def WritableAddr (a : Nat) : Prop :=
  a = 0x000 ∨ a = 0x002 ∨ a = 0x003 ∨ (0x010 ≤ a ∧ a ≤ 0x01B) ∨ (0x200 ≤ a ∧ a ≤ 0x352)

end Sys2Proof.Machine
end

