-- ==== Sys2Proof/Certificates/Slice0/Obligations.lean ====
section
/-! DEFINITION. The statements about MSX-CODEC for the provers. OBLIGATIONS.json gives each its rule and its words. -/

open Sys2Proof Sys2Proof.Machine

/-! ## Codes -/

/-- The decoder reads every encoded instruction back (30_encoding.md sections 5 and 6, 44_control.md R180). -/
def Obligations.DecodeInvertsEncode : Prop := ∀ i : Instr, decode (encode i) = .ok i

/-- Each command word and each kind code has one meaning, and of a pushed word only bits 7..0 count. -/
def Obligations.EncodeInvertsDecode : Prop :=
  (∀ (w : Word) (i : Instr), decode (.cmd w) = .ok i → encode i = .cmd w) ∧
  (∀ (k : BitVec 3) (i : Instr), decode (.fdesc k) = .ok i → encode i = .fdesc k) ∧
  (∀ (a : Addr) (d : Word) (i : Instr),
    decode (.buswr a d) = .ok i → encode i = .buswr a (d &&& 0x00FF))

/-- The command words that the decoder rejects: those that name no command in any configuration (30_encoding.md R91). R91
also makes 3, 5 and 7 illegal when `HAS_ENC` = 0; that the decoder has no configuration and that the meanings of those
three check `HAS_ENC` is the model's choice (log 11). -/
def Obligations.IllegalWordsRejected : Prop :=
  ∀ w : Word, decode (.cmd w) = .error (.illegalCommand w) ↔
    (w >>> 4 ≠ 0 ∨ 8 ≤ (w &&& 0x000F).toNat)

/-- Words written out from the encoding tables decode to their instructions (30_encoding.md R88, R90). -/
def Obligations.WrittenWordsDecode : Prop :=
  decode (.cmd 0b0000000000000010) = .ok .unpk ∧
  decode (.cmd 0b0000000000000110) = .ok .fdec ∧
  decode (.cmd 0b0000000000000111) = .ok .fenc ∧
  decode (.fdesc 0b100) = .ok .behav ∧
  decode (.fdesc 0b111) = .ok .rsvd ∧
  decode (.buswr 0b000000000011 0x01F0) = .ok (.push 0xF0)

/-! ## The step -/

/-- A step takes the pending event off the list and runs the instruction it carries; a walk under way runs the
descriptor of the cell at `NP` (44_control.md R189, 42_record.md R142). -/
def Obligations.StepRunsDecoded : Prop :=
  (∀ (s : State) (w : Word) (rest : List HostEvent) (i : Instr),
    s.work = none → s.events = .wr 0x000 w :: rest → decode (.cmd w) = .ok i →
      step s = exec i { s with events := rest, rdata := none }) ∧
  (∀ (s : State) (d : Word) (rest : List HostEvent) (i : Instr),
    s.work = none → s.events = .wr 0x003 d :: rest → decode (.buswr 0x003 d) = .ok i →
      step s = exec i { s with events := rest, rdata := none }) ∧
  (∀ (s : State) (w : Work) (i : Instr),
    s.work = some w → w.phase = .walk → w.np < natLen →
      decode (.fdesc (kindCode (kindAt s.config w.np))) = .ok i → step s = exec i s)

/-- The `Reset` event (10_state.md R45). -/
def Obligations.ResetEventClears : Prop :=
  ∀ (s : State) (rest : List HostEvent), s.work = none → s.events = .reset :: rest →
    ∃ t, step s = .next t ∧
      (∀ i < natLen, readCell t.config t.n i = 0) ∧ (∀ i : Fin 12, t.hdr[i] = 0) ∧
      t.cfg = 0 ∧ t.status = 0 ∧ t.ilen = 0 ∧ t.olen = 0 ∧
      t.errcode = 0 ∧ t.errstage = 0 ∧ t.erroff = 0 ∧ t.errexp = 0 ∧ t.erract = 0 ∧ t.warnoff = 0 ∧
      t.work = none ∧ t.config = s.config ∧ t.events = rest

/-! ## NOP, CLR, PUSH -/

/-- `NOP` (44_control.md R184). -/
def Obligations.NopChangesNothing : Prop :=
  decode (.cmd 0x0000) = .ok .nop ∧ ∀ s : State, exec .nop s = .next s

/-- `CLR` (44_control.md R185): what it clears, and that it changes nothing else. That the buffers keep their cells is
the model's choice (log 7). -/
def Obligations.ClrStartsNewInput : Prop :=
  decode (.cmd 0x0001) = .ok .clr ∧
  ∀ s : State, ∃ t, exec .clr s = .next t ∧
    t.ilen = 0 ∧ t.olen = 0 ∧ t.status = 0 ∧ t.warnoff = 0 ∧
    t.errcode = 0 ∧ t.errstage = 0 ∧ t.erroff = 0 ∧ t.errexp = 0 ∧ t.erract = 0 ∧
    t.cfg = s.cfg ∧ t.hdr = s.hdr ∧ t.n = s.n ∧ t.ibuf = s.ibuf ∧ t.obuf = s.obuf ∧
    t.config = s.config ∧ t.work = s.work ∧ t.events = s.events ∧ t.rdata = s.rdata ∧ t.draws = s.draws

/-- `PUSH` (44_control.md R180): the byte stored, the count, and that it changes nothing else. That every cell of `IBUF`
but the one at `ILEN` is as it was, those above it too, is the model's choice (log 7). -/
def Obligations.PushStoresAndCounts : Prop :=
  ∀ (b : Byte) (s : State), ∃ t, exec (.push b) s = .next t ∧
    (∀ a, t.ibuf.read a =
      if a = s.ilen.toNat ∧ s.ilen.toNat < s.config.ibufCap then b else s.ibuf.read a) ∧
    t.ilen.toNat = min (s.ilen.toNat + 1) 65535 ∧
    t.n = s.n ∧ t.hdr = s.hdr ∧ t.cfg = s.cfg ∧ t.status = s.status ∧ t.olen = s.olen ∧
    t.errcode = s.errcode ∧ t.errstage = s.errstage ∧ t.erroff = s.erroff ∧
    t.errexp = s.errexp ∧ t.erract = s.erract ∧ t.warnoff = s.warnoff ∧ t.obuf = s.obuf ∧
    t.config = s.config ∧ t.work = s.work ∧ t.events = s.events ∧ t.rdata = s.rdata ∧ t.draws = s.draws

/-- Which events change `ILEN`, and how (10_state.md R30). -/
def Obligations.IlenChangesOnlyByResetClrPush : Prop :=
  ∀ s t : State, s.work = none → step s = .next t → t.ilen ≠ s.ilen →
    ∃ rest, (s.events = .reset :: rest ∧ t.ilen = 0) ∨
      (s.events = .wr 0x000 0x0001 :: rest ∧ t.ilen = 0) ∨
      (∃ d, s.events = .wr 0x003 d :: rest ∧ t.ilen.toNat = s.ilen.toNat + 1)

/-! ## The unpacker -/

/-- The closed form of the unpacker (40_unpack.md R112). -/
def Obligations.UnpackClosedForm : Prop :=
  ∀ p : List Byte, (unpack p).length = ulen p.length ∧
    ∀ j, (j < (unpack p).length ↔ 8 * (j / 7) + 1 + j % 7 < p.length) ∧
      (j < (unpack p).length →
        (unpack p).getD j 0 =
          p.getD (8 * (j / 7) + 1 + j % 7) 0 ||| (((p.getD (8 * (j / 7)) 0 >>> (j % 7)) &&& 1) <<< 7) ∧
        (∀ b < 7, ((unpack p).getD j 0).getLsbD b = (p.getD (8 * (j / 7) + 1 + j % 7) 0).getLsbD b) ∧
        ((unpack p).getD j 0).getLsbD 7 =
          ((p.getD (8 * (j / 7) + 1 + j % 7) 0).getLsbD 7 || (p.getD (8 * (j / 7)) 0).getLsbD (j % 7)))

/-- The length law of the unpacker, with the values the rule lists (40_unpack.md R113). -/
def Obligations.UnpackLength : Prop :=
  (∀ p : List Byte, (unpack p).length = ulen p.length ∧
    (unpack p).length = 7 * (p.length / 8) + max 0 (p.length % 8 - 1)) ∧
  [0, 1, 2, 3, 4, 5, 6, 7, 8, 9, 10, 15, 16, 17, 388, 512].map ulen =
    [0, 0, 1, 2, 3, 4, 5, 6, 7, 7, 8, 13, 14, 14, 339, 448]

/-- `UNPK` completes on every input the buffer holds (40_unpack.md section 2). That `OBUF` keeps its cells above the
output is the model's choice (log 7). -/
def Obligations.UnpkCompletes : Prop :=
  ∀ s : State, s.ilen.toNat ≤ s.config.ibufCap →
    ∃ t, exec .unpk s = .next t ∧ t.output = unpack s.input ∧
      t.olen.toNat = ulen s.ilen.toNat ∧
      (∀ a, ulen s.ilen.toNat ≤ a → t.obuf.read a = s.obuf.read a) ∧
      t.Succeeded none ∧ t.n = s.n ∧ t.hdr = s.hdr ∧ t.work = none ∧ s.Kept t

/-! ## The packer -/

/-- The length law of the packer, with the values the rule lists (41_pack.md R122). -/
def Obligations.PackLength : Prop :=
  (∀ x : List Byte, (pack x).length = plen x.length ∧
    (pack x).length = x.length + (x.length + 6) / 7 ∧ (pack x).length % 8 ≠ 1) ∧
  [0, 1, 6, 7, 8, 14, 339, 448].map plen = [0, 2, 7, 8, 10, 16, 388, 512]

/-- The packed sequence has its chunks' bytes and no others, and this is every bitmap and every data byte (41_pack.md
R121). -/
def Obligations.PackClosedForm : Prop :=
  pack [] = [] ∧ (∀ x : List Byte, (pack x).length = x.length + (x.length + 6) / 7) ∧
  ∀ (x : List Byte) (q r : Nat), r < 7 → 7 * q + r < x.length →
    (pack x).getD (8 * q + 1 + r) 0 = x.getD (7 * q + r) 0 &&& 0x7F ∧
    ∀ b < 8, ((pack x).getD (8 * q) 0).getLsbD b =
      (decide (b < 7) && (x.getD (7 * q + b) 0).getLsbD 7)

/-- Every emitted byte is at most 127 (41_pack.md R126). -/
def Obligations.PackIsSevenBitClean : Prop := ∀ x : List Byte, ∀ b ∈ pack x, b.toNat ≤ 127

/-- `PACK` completes on every input the buffer holds (41_pack.md section 2). That `OBUF` keeps its cells above the
output is the model's choice (log 7). -/
def Obligations.PackCompletes : Prop :=
  ∀ s : State, s.config.hasEnc = true → s.config.IbufCapOk → s.config.ObufCapOk →
    s.ilen.toNat ≤ s.config.ibufCap →
    ∃ t, exec .pack s = .next t ∧ t.output = pack s.input ∧
      t.olen.toNat = plen s.ilen.toNat ∧ t.olen.toNat ≤ s.config.obufCap ∧
      (∀ a, plen s.ilen.toNat ≤ a → t.obuf.read a = s.obuf.read a) ∧
      t.Succeeded none ∧ t.n = s.n ∧ t.hdr = s.hdr ∧ t.work = none ∧ s.Kept t

/-- More bytes pushed than the input buffer holds (40_unpack.md section 2, 41_pack.md section 2). -/
def Obligations.OverrunRaisesShapeError : Prop :=
  ∀ s : State, s.config.ibufCap < s.ilen.toNat →
    (∃ t, exec .unpk s = .next t ∧ s.Failed t 1 4 0 (word s.config.ibufCap) s.ilen) ∧
    (s.config.hasEnc = true →
      ∃ t, exec .pack s = .next t ∧ s.Failed t 1 4 0 (word s.config.ibufCap) s.ilen)

/-- Unpacking what was packed (41_pack.md R124). -/
def Obligations.UnpackPackRoundTrip : Prop := ∀ x : List Byte, unpack (pack x) = x

/-- Packing what was unpacked, exactly on the validly packed sequences (41_pack.md R125). -/
def Obligations.PackUnpackRoundTrip : Prop :=
  (∀ y : List Byte, pack (unpack y) = y ↔ ValidlyPacked y) ∧
  pack (unpack [0x80, 0, 0, 0, 0, 0, 0, 0]) = [0x00, 0, 0, 0, 0, 0, 0, 0] ∧
  pack (unpack [0x00, 0x80]) = [0x01, 0x00] ∧
  pack (unpack [0x00]) = [] ∧
  pack (unpack [0x02, 0x05]) = [0x00, 0x05]

/-- The validly packed sequences are those three conditions name, and exactly the image of the packer (41_pack.md
R123). -/
def Obligations.PackImageIsValidlyPacked : Prop :=
  ∀ y : List Byte,
    (ValidlyPacked y ↔
      (∀ b ∈ y, b.toNat ≤ 127) ∧ y.length % 8 ≠ 1 ∧
      ∀ m, 1 ≤ m → m ≤ 6 → y.length % 8 = 1 + m →
        ∀ b, m ≤ b → b ≤ 6 → (y.getD (8 * (y.length / 8)) 0).getLsbD b = false) ∧
    (ValidlyPacked y ↔ ∃ x, pack x = y)

/-! ## Enumerated field dispatch and the structured record -/

/-- `enum_decode` (42_record.md R132). -/
def Obligations.EnumDecodeFindsVariant : Prop :=
  ∀ (c : Config) (e : Kind) (b : Byte), c.EnumCodeOk →
    (∀ v, enumDecode c e b = .known v ↔ v ∈ e.variants ∧ c.enumCode.code v = b) ∧
    (∀ r, enumDecode c e b = .unrecognized r ↔ r = b ∧ ∀ v ∈ e.variants, c.enumCode.code v ≠ b)

/-- `enum_encode` and the two round trips (42_record.md R133). -/
def Obligations.EnumRoundTrip : Prop :=
  ∀ (c : Config) (e : Kind), c.EnumCodeOk →
    (∀ v, enumEncode c (.known v) = c.enumCode.code v) ∧ (∀ b, enumEncode c (.unrecognized b) = b) ∧
    (∀ b, enumEncode c (enumDecode c e b) = b) ∧
    ∀ x, enumOk c e x → enumDecode c e (enumEncode c x) = x

/-- The structured record and the register file show the same thing (42_record.md section 1). -/
def Obligations.RecordViewRoundTrip : Prop :=
  ∀ c : Config, c.Valid →
    (∀ m : Memory, recordOk c (view c m) ∧
      recordImage c (view c m) = (List.range natLen).map (fun i => readCell c m i)) ∧
    ∀ (r : SettingsRecord) (m : Memory), recordOk c r →
      (∀ i < natLen, readCell c m i = (recordImage c r).getD i 0) → view c m = r

/-- How many cells of each kind the schema has, whatever the group layout (30_encoding.md R89). -/
def Obligations.SchemaKindCounts : Prop :=
  ∀ c : Config, c.GroupLayoutOk →
    c.groupLayout.length = groupLen ∧
    ((schema c).countP (fun x => x.2 == .u8) = 176) ∧ ((schema c).countP (fun x => x.2 == .mode) = 1) ∧
    ((schema c).countP (fun x => x.2 == .led) = 1) ∧ ((schema c).countP (fun x => x.2 == .assign) = 35) ∧
    ((schema c).countP (fun x => x.2 == .behav) = 35) ∧ ((schema c).countP (fun x => x.2 == .rsvd) = 91)

/-- The hardwired cells read 0, and where they stand under the reference layout, whose reserved slots the spec gives as
general knowledge (10_state.md section 2, log 1). -/
def Obligations.HardwiredCells : Prop :=
  (∀ (c : Config) (m : Memory) (i : Nat), kindAt c i = .rsvd → readCell c m i = 0) ∧
  ∀ i < natLen, kindAt Config.reference i = .rsvd ↔
    (∃ g < 8, ∃ j ∈ [0, 2, 6, 8, 12, 18, 24, 30], i = 3 + 31 * g + j) ∨
    (∃ b < 11, i = 252 + 6 * b + 5) ∨ 323 ≤ i

/-- `TAG` (10_state.md R26): its two bytes, and that the host can read it and not write it. -/
def Obligations.TagShowsKindAndOrdinal : Prop :=
  ∀ (s : State) (i : Nat),
    ((s.tag i).extractLsb' 8 8).toNat =
      (match kindAt s.config i with
        | .u8 => 0 | .mode => 1 | .led => 2 | .assign => 3 | .behav => 4 | .rsvd => 7) ∧
    (isEnum (kindAt s.config i) = true → ∀ v,
      enumDecode s.config (kindAt s.config i) (readCell s.config s.n i) = .known v →
      (kindAt s.config i).variants[((s.tag i).extractLsb' 0 8).toNat]? = some v) ∧
    (isEnum (kindAt s.config i) = false ∨
      enumDecode s.config (kindAt s.config i) (readCell s.config s.n i) =
        .unrecognized (readCell s.config s.n i) →
      (s.tag i).extractLsb' 0 8 = 0xFF) ∧
    (s.work = none → i < natLen → s.ReadsAs (BitVec.ofNat 12 (0x400 + i)) (s.tag i) ∧
      ∀ d rest, s.events = .wr (BitVec.ofNat 12 (0x400 + i)) d :: rest →
        ∃ r, step s = .refused r)

/-! ## The walker and the descriptors -/

/-- The walk: first failure wins, and the warning is the lowest unrecognised offset (42_record.md R142). -/
def Obligations.WalkFirstFailureWins : Prop :=
  ∀ (c : Config) (es : Bool) (bs : List Byte), bs.length = natLen →
    (∀ e, recWalk c es bs = .error e ↔
      ∃ i < natLen, RaisesAt c es i (bs.getD i 0) e ∧ ∀ j < i, ¬ Rejected c es j (bs.getD j 0)) ∧
    (∀ w, recWalk c es bs = .ok w ↔
      (∀ i < natLen, ¬ Rejected c es i (bs.getD i 0)) ∧
      FirstUnrecognised c (fun i => bs.getD i 0) natLen w)

/-- A descriptor that accepts its byte moves the cursor by one and changes nothing else (42_record.md section 3). -/
def Obligations.DescriptorsAdvance : Prop :=
  ∀ (s : State) (w : Work) (b : Byte), s.work = some w → w.image[w.np]? = some b →
    exec .u8 s = .next { s with work := some { w with np := w.np + 1 } } ∧
    (b = 0 → exec .rsvd s = .next { s with work := some { w with np := w.np + 1 } }) ∧
    ∀ x ∈ [(Instr.mode, Kind.mode), (.led, .led), (.assign, .assign), (.behav, .behav)],
      (∀ v ∈ x.2.variants, s.config.enumCode.code v = b →
        exec x.1 s = .next { s with work := some { w with np := w.np + 1 } }) ∧
      ((∀ v ∈ x.2.variants, s.config.enumCode.code v ≠ b) → s.es = false →
        exec x.1 s =
          .next { s with work := some { w with np := w.np + 1, warn := some (w.warn.getD w.np) } })

/-- A descriptor that rejects its byte aborts the command with the error entry (42_record.md section 3). -/
def Obligations.DescriptorsRaise : Prop :=
  ∀ (s : State) (w : Work) (b : Byte), s.work = some w → w.image[w.np]? = some b →
    (b ≠ 0 → ∃ t, exec .rsvd s = .next t ∧ s.Failed t 3 3 (word w.np) 0 (b.setWidth 16)) ∧
    ∀ x ∈ [(Instr.mode, Kind.mode, 1), (.led, .led, 2), (.assign, .assign, 3), (.behav, .behav, 4)],
      (∀ v ∈ x.2.1.variants, s.config.enumCode.code v ≠ b) → s.es = true →
        ∃ t, exec x.1 s = .next t ∧ s.Failed t 4 3 (word w.np) (word x.2.2) (b.setWidth 16)

/-- A descriptor has no operand unless a walk stands at a cell: the model's choice (log 9). -/
def Obligations.DescriptorNeedsCell : Prop :=
  ∀ s : State, (∀ w, s.work = some w → w.image[w.np]? = none) →
    ∀ i ∈ [Instr.u8, .mode, .led, .assign, .behav, .rsvd], exec i s = .refused .noCell

/-! ## RDEC and RENC -/

/-- `RDEC` completes (42_record.md section 4). -/
def Obligations.RdecCompletes : Prop :=
  ∀ s : State, s.ilen.toNat = natLen →
    (∀ i < natLen, ¬ Rejected s.config s.es i (s.ibuf.read i)) →
    ∃ t w, exec .rdec s = .next t ∧ FirstUnrecognised s.config s.ibuf.read natLen w ∧ t.Succeeded w ∧
      (∀ i < natLen, readCell t.config t.n i = s.ibuf.read i) ∧
      (∀ i, natLen ≤ i → t.n.read i = s.n.read i) ∧
      t.olen = 0 ∧ t.hdr = s.hdr ∧ (∀ a, t.obuf.read a = s.obuf.read a) ∧ t.work = none ∧ s.Kept t

/-- Where `RDEC` raises (42_record.md section 4). -/
def Obligations.RdecRaises : Prop :=
  ∀ s : State,
    (s.ilen.toNat ≠ natLen → ∃ t, exec .rdec s = .next t ∧ s.Failed t 1 3 0 339 s.ilen) ∧
    (s.ilen.toNat = natLen → ∀ i < natLen, (∀ j < i, ¬ Rejected s.config s.es j (s.ibuf.read j)) →
      (ReservedNonzero s.config i (s.ibuf.read i) →
        ∃ t, exec .rdec s = .next t ∧ s.Failed t 3 3 (word i) 0 ((s.ibuf.read i).setWidth 16)) ∧
      (s.es = true → Unrecognised s.config i (s.ibuf.read i) →
        ∃ t, exec .rdec s = .next t ∧
          s.Failed t 4 3 (word i) ((kindCode (kindAt s.config i)).setWidth 16)
            ((s.ibuf.read i).setWidth 16)))

/-- `RENC` completes (42_record.md section 4). That `OBUF` keeps its cells above the output is the model's choice
(log 7). -/
def Obligations.RencCompletes : Prop :=
  ∀ s : State, s.config.hasEnc = true →
    (s.es = true → ∀ i < natLen, ¬ Unrecognised s.config i (readCell s.config s.n i)) →
    ∃ t w, exec .renc s = .next t ∧
      FirstUnrecognised s.config (readCell s.config s.n) natLen w ∧ t.Succeeded w ∧
      t.olen = 339 ∧ (∀ i < natLen, t.obuf.read i = readCell s.config s.n i) ∧
      (∀ a, natLen ≤ a → t.obuf.read a = s.obuf.read a) ∧
      t.n = s.n ∧ t.hdr = s.hdr ∧ t.work = none ∧ s.Kept t

/-- Where `RENC` raises: only at an unrecognised enumeration byte with `ES` = 1 (42_record.md section 4). -/
def Obligations.RencRaises : Prop :=
  ∀ s : State, s.config.hasEnc = true → s.es = true → ∀ i < natLen,
    (∀ j < i, ¬ Unrecognised s.config j (readCell s.config s.n j)) →
    Unrecognised s.config i (readCell s.config s.n i) →
    ∃ t, exec .renc s = .next t ∧
      s.Failed t 4 3 (word i) ((kindCode (kindAt s.config i)).setWidth 16)
        ((readCell s.config s.n i).setWidth 16)

/-- `RDEC` then `RENC`, both succeeding, reproduces the input (42_record.md section 5). -/
def Obligations.RdecThenRencReproduces : Prop :=
  ∀ s t u : State, s.config.hasEnc = true → exec .rdec s = .next t → t.status ≠ 2 →
    exec .renc t = .next u → u.status ≠ 2 ∧ u.output = s.input

/-! ## FDEC and FENC -/

/-- The payload of a 402-byte frame unpacks to 339 bytes, each at the frame offsets of 30_encoding.md R81, so that the two
inner shape tests of `FDEC` never fire; stage PACKED is reached by no command, stage NATURAL by `RDEC` (43_frame.md
R163). -/
def Obligations.FramePayloadUnpacks : Prop :=
  (∀ raw : List Byte, raw.length = frameLen →
    (payload raw).length = packedLen ∧ (unpack (payload raw)).length = natLen ∧
    ∀ j < natLen, (unpack (payload raw)).getD j 0 = frameNatural (fun i => raw.getD i 0) j) ∧
  (∀ s t : State, exec .fdec s = .next t → ¬ (t.errcode = 1 ∧ (t.errstage = 2 ∨ t.errstage = 3))) ∧
  (∀ (i : Instr) (s t : State), isDataCommand i = true → exec i s = .next t → t.errstage ≠ 2) ∧
  ∀ s : State, s.ilen.toNat ≠ natLen →
    ∃ t, exec .rdec s = .next t ∧ t.errcode = 1 ∧ t.errstage = 3

/-- `FDEC` completes (43_frame.md section 2). That `OBUF` keeps its cells above the output is the model's choice
(log 7). -/
def Obligations.FdecCompletes : Prop :=
  ∀ s : State, s.ilen.toNat = frameLen → (∀ i : Fin 12, HeaderMatches s.config s.ibuf.read i) →
    s.ibuf.read 12 = 0x40 → s.ibuf.read 401 = 0xF7 →
    (∀ i < natLen, ¬ Rejected s.config s.es i (frameNatural s.ibuf.read i)) →
    ∃ t w, exec .fdec s = .next t ∧
      FirstUnrecognised s.config (frameNatural s.ibuf.read) natLen w ∧ t.Succeeded w ∧
      (∀ i : Fin 12, t.hdr[i] = s.ibuf.read i.val) ∧
      (∀ i < natLen, readCell t.config t.n i = frameNatural s.ibuf.read i) ∧
      (∀ i, natLen ≤ i → t.n.read i = s.n.read i) ∧
      t.olen = 339 ∧ (∀ i < natLen, t.obuf.read i = frameNatural s.ibuf.read i) ∧
      (∀ a, natLen ≤ a → t.obuf.read a = s.obuf.read a) ∧ t.work = none ∧ s.Kept t

/-- Where `FDEC` raises, in the order of its tests (43_frame.md R161, section 2). -/
def Obligations.FdecRaises : Prop :=
  ∀ s : State,
    (s.ilen.toNat ≠ frameLen → ∃ t, exec .fdec s = .next t ∧ s.Failed t 1 1 0 402 s.ilen) ∧
    (s.ilen.toNat = frameLen → ∀ i : Fin 12, (∀ j < i, HeaderMatches s.config s.ibuf.read j) →
      ¬ HeaderMatches s.config s.ibuf.read i →
      ∃ t, exec .fdec s = .next t ∧
        s.Failed t 2 1 (word i.val) (s.config.hdrConst[i].value.setWidth 16)
          ((s.ibuf.read i.val).setWidth 16)) ∧
    (s.ilen.toNat = frameLen → (∀ i : Fin 12, HeaderMatches s.config s.ibuf.read i) →
      (s.ibuf.read 12 ≠ 0x40 →
        ∃ t, exec .fdec s = .next t ∧ s.Failed t 2 1 12 0x40 ((s.ibuf.read 12).setWidth 16)) ∧
      (s.ibuf.read 12 = 0x40 → s.ibuf.read 401 ≠ 0xF7 →
        ∃ t, exec .fdec s = .next t ∧ s.Failed t 2 1 401 0xF7 ((s.ibuf.read 401).setWidth 16)) ∧
      (s.ibuf.read 12 = 0x40 → s.ibuf.read 401 = 0xF7 → ∀ i < natLen,
        (∀ j < i, ¬ Rejected s.config s.es j (frameNatural s.ibuf.read j)) →
        (ReservedNonzero s.config i (frameNatural s.ibuf.read i) →
          ∃ t, exec .fdec s = .next t ∧
            s.Failed t 3 3 (word i) 0 ((frameNatural s.ibuf.read i).setWidth 16)) ∧
        (s.es = true → Unrecognised s.config i (frameNatural s.ibuf.read i) →
          ∃ t, exec .fdec s = .next t ∧
            s.Failed t 4 3 (word i) ((kindCode (kindAt s.config i)).setWidth 16)
              ((frameNatural s.ibuf.read i).setWidth 16))))

/-- `FENC` completes (43_frame.md section 3). That `OBUF` keeps its cells above the output is the model's choice
(log 7). -/
def Obligations.FencCompletes : Prop :=
  ∀ s : State, s.config.hasEnc = true → (∀ i : Fin 12, HeaderMatches s.config s.hdrByte i) →
    (s.es = true → ∀ i < natLen, ¬ Unrecognised s.config i (readCell s.config s.n i)) →
    ∃ t w, exec .fenc s = .next t ∧
      FirstUnrecognised s.config (readCell s.config s.n) natLen w ∧ t.Succeeded w ∧
      t.olen = 402 ∧ t.output = s.hdr.toList ++ [0x40] ++ pack s.image ++ [0xF7] ∧
      (∀ a, frameLen ≤ a → t.obuf.read a = s.obuf.read a) ∧
      t.n = s.n ∧ t.hdr = s.hdr ∧ t.work = none ∧ s.Kept t

/-- Where `FENC` raises: the header first, then the enumerations with `ES` = 1 (43_frame.md section 3). -/
def Obligations.FencRaises : Prop :=
  ∀ s : State, s.config.hasEnc = true →
    (∀ i : Fin 12, (∀ j < i, HeaderMatches s.config s.hdrByte j) →
      ¬ HeaderMatches s.config s.hdrByte i →
      ∃ t, exec .fenc s = .next t ∧
        s.Failed t 2 1 (word i.val) (s.config.hdrConst[i].value.setWidth 16)
          ((s.hdrByte i.val).setWidth 16)) ∧
    ((∀ i : Fin 12, HeaderMatches s.config s.hdrByte i) → s.es = true → ∀ i < natLen,
      (∀ j < i, ¬ Unrecognised s.config j (readCell s.config s.n j)) →
      Unrecognised s.config i (readCell s.config s.n i) →
      ∃ t, exec .fenc s = .next t ∧
        s.Failed t 4 3 (word i) ((kindCode (kindAt s.config i)).setWidth 16)
          ((readCell s.config s.n i).setWidth 16))

/-- `FENC` then `FDEC` of its output succeeds and gives back the header and the record (43_frame.md R172 (a)). -/
def Obligations.FencThenFdec : Prop :=
  ∀ s t u : State, s.config.hasEnc = true → exec .fenc s = .next t → t.status ≠ 2 →
    u.config = s.config → u.cfg = s.cfg → u.ilen = 402 → (∀ i < frameLen, u.ibuf.read i = t.obuf.read i) →
    ∃ v, exec .fdec u = .next v ∧ v.status = t.status ∧ v.warnoff = t.warnoff ∧ v.hdr = s.hdr ∧
      ∀ i < natLen, readCell v.config v.n i = readCell s.config s.n i

/-- `FDEC` then `FENC` reproduces the frame if and only if its payload is validly packed (43_frame.md R172 (b)). -/
def Obligations.FdecThenFenc : Prop :=
  ∀ s t u : State, s.config.hasEnc = true → exec .fdec s = .next t → t.status ≠ 2 →
    exec .fenc t = .next u →
    u.status ≠ 2 ∧ u.olen = 402 ∧ (u.output = s.input ↔ ValidlyPacked (payload s.input))

/-! ## Errors and the frame of a command -/

/-- An illegal command word (44_control.md R187). -/
def Obligations.IllegalCommandEntry : Prop :=
  ∀ (s : State) (w : Word) (rest : List HostEvent), s.work = none → s.events = .wr 0x000 w :: rest →
    (8 ≤ w.toNat ∨ (s.config.hasEnc = false ∧ (w = 0x0003 ∨ w = 0x0005 ∨ w = 0x0007))) →
    ∃ t, step s = .next t ∧ State.Failed { s with events := rest, rdata := none } t 5 0 0 0 w

/-- Without the encode path `PACK`, `RENC` and `FENC` are illegal commands (44_control.md section 4). -/
def Obligations.EncodePathAbsent : Prop :=
  ∀ s : State, s.config.hasEnc = false →
    (∃ t, exec .pack s = .next t ∧ s.Failed t 5 0 0 0 0x0003) ∧
    (∃ t, exec .renc s = .next t ∧ s.Failed t 5 0 0 0 0x0005) ∧
    (∃ t, exec .fenc s = .next t ∧ s.Failed t 5 0 0 0 0x0007)

/-- A data command always ends in a next state, that of a success or that of an error, and an error changes the result
registers only (44_control.md section 4, 60_exceptions.md section 4). -/
def Obligations.DataCommandsSucceedOrFail : Prop :=
  ∀ (i : Instr) (s : State), isDataCommand i = true →
    ∃ t, exec i s = .next t ∧
      ((∃ w, t.Succeeded w ∧ t.work = none ∧ s.Kept t) ∨
       (∃ code stage off exp act, 1 ≤ code.toNat ∧ code.toNat ≤ 5 ∧ s.Failed t code stage off exp act))

/-- A data command's result depends on the command, the configuration, `CFG`, the input bytes and, for the encode
commands, the record and the header, and on nothing else (00_scope.md R17). -/
def Obligations.DataCommandsStateless : Prop :=
  ∀ (i : Instr) (s₁ s₂ t₁ t₂ : State), isDataCommand i = true →
    s₁.config = s₂.config → s₁.cfg = s₂.cfg →
    (i = .unpk ∨ i = .pack ∨ i = .rdec ∨ i = .fdec →
      s₁.ilen = s₂.ilen ∧ ∀ a < s₁.ilen.toNat, s₁.ibuf.read a = s₂.ibuf.read a) →
    (i = .renc ∨ i = .fenc →
      s₁.hdr = s₂.hdr ∧ ∀ a < natLen, readCell s₁.config s₁.n a = readCell s₂.config s₂.n a) →
    exec i s₁ = .next t₁ → exec i s₂ = .next t₂ →
    t₁.status = t₂.status ∧ t₁.warnoff = t₂.warnoff ∧ t₁.errcode = t₂.errcode ∧
    t₁.errstage = t₂.errstage ∧ t₁.erroff = t₂.erroff ∧ t₁.errexp = t₂.errexp ∧ t₁.erract = t₂.erract ∧
    t₁.output = t₂.output ∧
    (t₁.status ≠ 2 → i = .rdec ∨ i = .fdec →
      ∀ a < natLen, readCell t₁.config t₁.n a = readCell t₂.config t₂.n a) ∧
    (t₁.status ≠ 2 → i = .fdec → t₁.hdr = t₂.hdr)

/-- A data command issued again with no event between gives the same final state (44_control.md section 4). -/
def Obligations.DataCommandsRepeat : Prop :=
  ∀ (i : Instr) (s t : State), isDataCommand i = true → exec i s = .next t → exec i t = .next t

/-- Which events change the record and the header (10_state.md section 2). -/
def Obligations.RecordChangesOnlyBy : Prop :=
  ∀ (s t : State) (e : HostEvent) (rest : List HostEvent),
    s.work = none → s.events = e :: rest → step s = .next t →
    (∀ i, readCell t.config t.n i ≠ readCell s.config s.n i →
      e = .reset ∨ e = .wr 0x000 0x0004 ∨ e = .wr 0x000 0x0006 ∨
        ∃ d, e = .wr (BitVec.ofNat 12 (0x200 + i)) d) ∧
    (∀ i : Fin 12, t.hdr[i] ≠ s.hdr[i] →
      e = .reset ∨ e = .wr 0x000 0x0006 ∨ ∃ d, e = .wr (BitVec.ofNat 12 (0x010 + i.val)) d)

/-! ## The bus -/

/-- The register map is one-to-one (20_memory.md section 2). -/
def Obligations.RegisterMapOneToOne : Prop :=
  ∀ c : Config, c.obufCap ≤ 2048 →
    (∀ l, locMapped c l = true → locate c (locAddr l) = l) ∧
    ∀ a, locate c a ≠ .unmapped → locMapped c (locate c a) = true ∧ locAddr (locate c a) = a

/-- Register reads (44_control.md R182). -/
def Obligations.RegisterReads : Prop :=
  ∀ s : State, s.work = none →
    s.ReadsAs 0x001 s.status ∧ s.ReadsAs 0x002 s.cfg ∧ s.ReadsAs 0x004 s.ilen ∧ s.ReadsAs 0x005 s.olen ∧
    s.ReadsAs 0x006 s.errcode ∧ s.ReadsAs 0x007 s.errstage ∧ s.ReadsAs 0x008 s.erroff ∧
    s.ReadsAs 0x009 s.errexp ∧ s.ReadsAs 0x00A s.erract ∧ s.ReadsAs 0x00B s.warnoff ∧
    (∀ i : Fin 12, s.ReadsAs (BitVec.ofNat 12 (0x010 + i.val)) (s.hdr[i].setWidth 16)) ∧
    (∀ i < natLen, s.ReadsAs (BitVec.ofNat 12 (0x200 + i))
      (if kindAt s.config i = .rsvd then 0 else (s.n.read i).setWidth 16)) ∧
    (∀ i < natLen, s.ReadsAs (BitVec.ofNat 12 (0x400 + i)) (s.tag i))

/-- Reads of the output buffer: the byte below `OLEN`, some byte at or above it, refused past the buffer (44_control.md
R183). -/
def Obligations.OutputReads : Prop :=
  ∀ (s : State) (i : Nat), s.work = none → 0x800 + i < 4096 → s.olen.toNat ≤ s.config.obufCap →
    (i < s.olen.toNat → s.ReadsAs (BitVec.ofNat 12 (0x800 + i)) ((s.obuf.read i).setWidth 16)) ∧
    (s.olen.toNat ≤ i → i < s.config.obufCap → ∀ rest,
      s.events = .rd (BitVec.ofNat 12 (0x800 + i)) :: rest →
      ∃ (t : State) (b : Byte), step s = .next t ∧ t.rdata = some (b.setWidth 16) ∧
        t = { s with events := rest, rdata := t.rdata, draws := t.draws }) ∧
    (s.config.obufCap ≤ i → ∀ rest, s.events = .rd (BitVec.ofNat 12 (0x800 + i)) :: rest →
      step s = .refused (.unmapped (BitVec.ofNat 12 (0x800 + i))))

/-- No read has a side effect (20_memory.md section 4): only the read bus, the pending events and the model's count of
drawn bytes differ. -/
def Obligations.ReadsHaveNoSideEffect : Prop :=
  ∀ (s t : State) (a : Addr) (rest : List HostEvent), s.work = none → s.events = .rd a :: rest →
    step s = .next t →
    t = { s with events := rest, rdata := t.rdata, draws := t.draws } ∧ t.rdata ≠ none ∧
      (t.draws ≠ s.draws → 0x800 + s.olen.toNat ≤ a.toNat)

/-- Register writes (44_control.md R181). -/
def Obligations.RegisterWrites : Prop :=
  ∀ (s : State) (d : Word) (rest : List HostEvent), s.work = none →
    (s.events = .wr 0x002 d :: rest →
      step s = .next { s with cfg := if d.getLsbD 0 then 1 else 0, events := rest, rdata := none }) ∧
    (∀ i : Fin 12, s.events = .wr (BitVec.ofNat 12 (0x010 + i.val)) d :: rest →
      step s = .next { s with hdr := s.hdr.set i (d.setWidth 8), events := rest, rdata := none }) ∧
    (∀ i < natLen, s.events = .wr (BitVec.ofNat 12 (0x200 + i)) d :: rest →
      ∃ m, step s = .next { s with n := m, events := rest, rdata := none } ∧
        (kindAt s.config i = .rsvd → m = s.n) ∧
        (kindAt s.config i ≠ .rsvd → ∀ j, m.read j = if j = i then d.setWidth 8 else s.n.read j))

/-- The accesses the map does not define are refused, and no others are (20_memory.md R66). -/
def Obligations.UndefinedAccessesRefused : Prop :=
  ∀ (s : State) (a : Addr) (d : Word) (rest : List HostEvent), s.work = none → s.config.obufCap ≤ 2048 →
    (s.events = .rd a :: rest → ((∃ r, step s = .refused r) ↔ ¬ ReadableAddr s.config a.toNat)) ∧
    (s.events = .wr a d :: rest → ((∃ r, step s = .refused r) ↔ ¬ WritableAddr a.toNat))

/-! ## The invariant -/

/-- The reset state of every valid configuration, and the model's reset state, whose configuration is the reference one
(log 1), meet the invariant (10_state.md section 10). -/
def Obligations.ResetMeetsInvariant : Prop :=
  (∀ c : Config, c.Valid → (State.resetOf c).Inv) ∧ State.reset.Inv

/-- Every step keeps the invariant: the register files and buffers stay canonical and in range, `STATUS`, `ERRCODE`,
`WARNOFF`, `OLEN`, `CFG` and the cursors keep to what 10_state.md says they can hold. Two parts of the invariant are the
model's choice: that nothing is stored in a hardwired cell (log 14), and in which pass of which command the hidden
registers hold what (log 8). -/
def Obligations.StepKeepsInvariant : Prop :=
  ∀ s t : State, s.Inv → step s = .next t → t.Inv

/-- From a state that meets the invariant, a step has a next state, or it refuses: then no command is under way, the
pending event is an access that the map does not define (20_memory.md R66), and the refusal names its address. So every
command word, legal or not, and every step of a command under way (the unfolded commands are the model's, log 8) has a
next state. The names of the refusals are the model's (log 13). -/
def Obligations.OnlyBusAccessesAreRefused : Prop :=
  ∀ s : State, s.Inv →
    ((∃ t, step s = .next t) ∨
      ∃ r, step s = .refused r ∧ s.work = none ∧ r.isBusRefusal = true ∧ ∃ a rest,
        (s.events = .rd a :: rest ∧ ¬ ReadableAddr s.config a.toNat ∧
          (r = .unmapped a ∨ r = .readOfWriteOnly a)) ∨
        ∃ d, s.events = .wr a d :: rest ∧ ¬ WritableAddr a.toNat ∧
          (r = .unmapped a ∨ r = .writeOfReadOnly a)) ∧
    (s.work ≠ none ∨ (∃ w rest, s.events = .wr 0x000 w :: rest) → ∃ t, step s = .next t)

/-- The cursors of a command unfolded (10_state.md R40): each is 0 when the command starts; a step advances each by
exactly one for a byte consumed, a byte produced or a cell walked, and else leaves it; a raise records the cursor that is
advancing in `ERROFF`; a commit finds `IP` = `ILEN`, `OP` = the new `OLEN` and `NP` = 339 wherever the command reads input,
produces output and walks. That the passes follow one another, and their order, is the model's choice (log 8). -/
def Obligations.CursorsAdvanceByOne : Prop :=
  (∀ (cmd : PassCmd) (s : State),
    (∀ w, (s.begin cmd).work = some w →
      w.cmd = cmd ∧ w.line.ip = 0 ∧ w.line.op = 0 ∧ w.np = 0 ∧ w.line.k = 0 ∧ w.line.bm = 0) ∧
    ((s.begin cmd).work = none → (s.begin cmd).status = 2 ∧ (s.begin cmd).erroff = 0)) ∧
  ∀ (s t : State) (w : Work), s.Inv → s.work = some w → step s = .next t →
    w.line.ip ≤ s.ilen.toNat ∧ w.line.op ≤ s.config.obufCap ∧ w.np ≤ natLen ∧
    (∀ w', t.work = some w' → w.Advanced w' s.ilen.toNat) ∧
    (t.work = none → t.status = 2 → t.erroff = word w.cursor) ∧
    (t.work = none → t.status ≠ 2 →
      w.line.ip = (if readsInput w.cmd then s.ilen.toNat else 0) ∧ t.olen.toNat = w.line.op ∧
      w.np = (if walksCells w.cmd then natLen else 0))

/-- Each of the six data commands, unfolded into steps over the hidden registers, one per byte and one per cell, ends
where the one transition of the command does (10_state.md R41); the unfolding is the model's (log 8). -/
def Obligations.UnfoldedCommandsAgree : Prop :=
  ∀ (s : State) (cmd : PassCmd), (passInstr cmd).wellFormed s.config = true →
    ∃ k, Sys2Proof.core.run k (s.begin cmd) = exec (passInstr cmd) s
end

