-- ==== Sys2Proof/Laws/State.lean ====
section
/-! SUPPORT. One lemma per field per update of the state. -/

namespace Sys2Proof.Machine

/-! ## The prologue -/

@[simp] theorem State.prologue_config (s : State) : (s.prologue).config = s.config := rfl
@[simp] theorem State.prologue_n (s : State) : (s.prologue).n = s.n := rfl
@[simp] theorem State.prologue_hdr (s : State) : (s.prologue).hdr = s.hdr := rfl
@[simp] theorem State.prologue_cfg (s : State) : (s.prologue).cfg = s.cfg := rfl
@[simp] theorem State.prologue_status (s : State) : (s.prologue).status = stateIdle := rfl
@[simp] theorem State.prologue_ilen (s : State) : (s.prologue).ilen = s.ilen := rfl
@[simp] theorem State.prologue_olen (s : State) : (s.prologue).olen = 0 := rfl
@[simp] theorem State.prologue_errcode (s : State) : (s.prologue).errcode = 0 := rfl
@[simp] theorem State.prologue_errstage (s : State) : (s.prologue).errstage = 0 := rfl
@[simp] theorem State.prologue_erroff (s : State) : (s.prologue).erroff = 0 := rfl
@[simp] theorem State.prologue_errexp (s : State) : (s.prologue).errexp = 0 := rfl
@[simp] theorem State.prologue_erract (s : State) : (s.prologue).erract = 0 := rfl
@[simp] theorem State.prologue_warnoff (s : State) : (s.prologue).warnoff = 0 := rfl
@[simp] theorem State.prologue_ibuf (s : State) : (s.prologue).ibuf = s.ibuf := rfl
@[simp] theorem State.prologue_obuf (s : State) : (s.prologue).obuf = s.obuf := rfl
@[simp] theorem State.prologue_work (s : State) : (s.prologue).work = s.work := rfl
@[simp] theorem State.prologue_events (s : State) : (s.prologue).events = s.events := rfl
@[simp] theorem State.prologue_rdata (s : State) : (s.prologue).rdata = s.rdata := rfl
@[simp] theorem State.prologue_draws (s : State) : (s.prologue).draws = s.draws := rfl

/-! ## The error entry -/

@[simp] theorem State.errorEntry_config (e : Err) (s : State) : (s.errorEntry e).config = s.config := rfl
@[simp] theorem State.errorEntry_n (e : Err) (s : State) : (s.errorEntry e).n = s.n := rfl
@[simp] theorem State.errorEntry_hdr (e : Err) (s : State) : (s.errorEntry e).hdr = s.hdr := rfl
@[simp] theorem State.errorEntry_cfg (e : Err) (s : State) : (s.errorEntry e).cfg = s.cfg := rfl
@[simp] theorem State.errorEntry_status (e : Err) (s : State) : (s.errorEntry e).status = stateErr := rfl
@[simp] theorem State.errorEntry_ilen (e : Err) (s : State) : (s.errorEntry e).ilen = s.ilen := rfl
@[simp] theorem State.errorEntry_olen (e : Err) (s : State) : (s.errorEntry e).olen = 0 := rfl
@[simp] theorem State.errorEntry_errcode (e : Err) (s : State) : (s.errorEntry e).errcode = errCode e.kind := rfl
@[simp] theorem State.errorEntry_errstage (e : Err) (s : State) : (s.errorEntry e).errstage = stageCode e.stage := rfl
@[simp] theorem State.errorEntry_erroff (e : Err) (s : State) : (s.errorEntry e).erroff = e.off := rfl
@[simp] theorem State.errorEntry_errexp (e : Err) (s : State) : (s.errorEntry e).errexp = e.exp := rfl
@[simp] theorem State.errorEntry_erract (e : Err) (s : State) : (s.errorEntry e).erract = e.act := rfl
@[simp] theorem State.errorEntry_warnoff (e : Err) (s : State) : (s.errorEntry e).warnoff = 0 := rfl
@[simp] theorem State.errorEntry_ibuf (e : Err) (s : State) : (s.errorEntry e).ibuf = s.ibuf := rfl
@[simp] theorem State.errorEntry_obuf (e : Err) (s : State) : (s.errorEntry e).obuf = s.obuf := rfl
@[simp] theorem State.errorEntry_work (e : Err) (s : State) : (s.errorEntry e).work = none := rfl
@[simp] theorem State.errorEntry_events (e : Err) (s : State) : (s.errorEntry e).events = s.events := rfl
@[simp] theorem State.errorEntry_rdata (e : Err) (s : State) : (s.errorEntry e).rdata = s.rdata := rfl
@[simp] theorem State.errorEntry_draws (e : Err) (s : State) : (s.errorEntry e).draws = s.draws := rfl

/-! ## The commit -/

theorem State.commit_n (w : Commit) (s : State) :
    (s.commit w).n = match w.image with
      | none => s.n
      | some bs => writeCells s.config s.n bs := rfl

@[simp] theorem State.commit_n_of_none (w : Commit) (s : State) (h : w.image = none) : (s.commit w).n = s.n := by
  rw [State.commit_n, h]

@[simp] theorem State.commit_n_of_some (w : Commit) (s : State) (bs : List Byte) (h : w.image = some bs) :
    (s.commit w).n = writeCells s.config s.n bs := by
  rw [State.commit_n, h]

@[simp] theorem State.commit_config (w : Commit) (s : State) : (s.commit w).config = s.config := rfl
@[simp] theorem State.commit_hdr (w : Commit) (s : State) : (s.commit w).hdr = w.hdr.getD s.hdr := rfl
@[simp] theorem State.commit_cfg (w : Commit) (s : State) : (s.commit w).cfg = s.cfg := rfl
@[simp] theorem State.commit_status (w : Commit) (s : State) : (s.commit w).status = okStatus w.warn := rfl
@[simp] theorem State.commit_ilen (w : Commit) (s : State) : (s.commit w).ilen = s.ilen := rfl
@[simp] theorem State.commit_olen (w : Commit) (s : State) : (s.commit w).olen = word w.out.length := rfl
@[simp] theorem State.commit_errcode (w : Commit) (s : State) : (s.commit w).errcode = s.errcode := rfl
@[simp] theorem State.commit_errstage (w : Commit) (s : State) : (s.commit w).errstage = s.errstage := rfl
@[simp] theorem State.commit_erroff (w : Commit) (s : State) : (s.commit w).erroff = s.erroff := rfl
@[simp] theorem State.commit_errexp (w : Commit) (s : State) : (s.commit w).errexp = s.errexp := rfl
@[simp] theorem State.commit_erract (w : Commit) (s : State) : (s.commit w).erract = s.erract := rfl
@[simp] theorem State.commit_warnoff (w : Commit) (s : State) : (s.commit w).warnoff = okWarnoff w.warn := rfl
@[simp] theorem State.commit_ibuf (w : Commit) (s : State) : (s.commit w).ibuf = s.ibuf := rfl
@[simp] theorem State.commit_obuf (w : Commit) (s : State) : (s.commit w).obuf = s.obuf.store 0 w.out := rfl
@[simp] theorem State.commit_work (w : Commit) (s : State) : (s.commit w).work = none := rfl
@[simp] theorem State.commit_events (w : Commit) (s : State) : (s.commit w).events = s.events := rfl
@[simp] theorem State.commit_rdata (w : Commit) (s : State) : (s.commit w).rdata = s.rdata := rfl
@[simp] theorem State.commit_draws (w : Commit) (s : State) : (s.commit w).draws = s.draws := rfl

/-! ## An illegal command -/

@[simp] theorem State.illegalCommand_config (w : Word) (s : State) : (s.illegalCommand w).config = s.config := rfl
@[simp] theorem State.illegalCommand_n (w : Word) (s : State) : (s.illegalCommand w).n = s.n := rfl
@[simp] theorem State.illegalCommand_hdr (w : Word) (s : State) : (s.illegalCommand w).hdr = s.hdr := rfl
@[simp] theorem State.illegalCommand_cfg (w : Word) (s : State) : (s.illegalCommand w).cfg = s.cfg := rfl
@[simp] theorem State.illegalCommand_status (w : Word) (s : State) : (s.illegalCommand w).status = stateErr := rfl
@[simp] theorem State.illegalCommand_ilen (w : Word) (s : State) : (s.illegalCommand w).ilen = s.ilen := rfl
@[simp] theorem State.illegalCommand_olen (w : Word) (s : State) : (s.illegalCommand w).olen = 0 := rfl
@[simp] theorem State.illegalCommand_errcode (w : Word) (s : State) : (s.illegalCommand w).errcode = 5 := rfl
@[simp] theorem State.illegalCommand_errstage (w : Word) (s : State) : (s.illegalCommand w).errstage = 0 := rfl
@[simp] theorem State.illegalCommand_erroff (w : Word) (s : State) : (s.illegalCommand w).erroff = 0 := rfl
@[simp] theorem State.illegalCommand_errexp (w : Word) (s : State) : (s.illegalCommand w).errexp = 0 := rfl
@[simp] theorem State.illegalCommand_erract (w : Word) (s : State) : (s.illegalCommand w).erract = w := rfl
@[simp] theorem State.illegalCommand_warnoff (w : Word) (s : State) : (s.illegalCommand w).warnoff = 0 := rfl
@[simp] theorem State.illegalCommand_ibuf (w : Word) (s : State) : (s.illegalCommand w).ibuf = s.ibuf := rfl
@[simp] theorem State.illegalCommand_obuf (w : Word) (s : State) : (s.illegalCommand w).obuf = s.obuf := rfl
@[simp] theorem State.illegalCommand_work (w : Word) (s : State) : (s.illegalCommand w).work = none := rfl
@[simp] theorem State.illegalCommand_events (w : Word) (s : State) : (s.illegalCommand w).events = s.events := rfl
@[simp] theorem State.illegalCommand_rdata (w : Word) (s : State) : (s.illegalCommand w).rdata = s.rdata := rfl
@[simp] theorem State.illegalCommand_draws (w : Word) (s : State) : (s.illegalCommand w).draws = s.draws := rfl

/-! ## Reset -/

@[simp] theorem State.resetOf_config (c : Config) : (State.resetOf c).config = c := rfl
@[simp] theorem State.resetOf_n (c : Config) : (State.resetOf c).n = [] := rfl
@[simp] theorem State.resetOf_hdr (c : Config) : (State.resetOf c).hdr = Vector.replicate 12 0 := rfl
@[simp] theorem State.resetOf_cfg (c : Config) : (State.resetOf c).cfg = 0 := rfl
@[simp] theorem State.resetOf_status (c : Config) : (State.resetOf c).status = 0 := rfl
@[simp] theorem State.resetOf_ilen (c : Config) : (State.resetOf c).ilen = 0 := rfl
@[simp] theorem State.resetOf_olen (c : Config) : (State.resetOf c).olen = 0 := rfl
@[simp] theorem State.resetOf_errcode (c : Config) : (State.resetOf c).errcode = 0 := rfl
@[simp] theorem State.resetOf_errstage (c : Config) : (State.resetOf c).errstage = 0 := rfl
@[simp] theorem State.resetOf_erroff (c : Config) : (State.resetOf c).erroff = 0 := rfl
@[simp] theorem State.resetOf_errexp (c : Config) : (State.resetOf c).errexp = 0 := rfl
@[simp] theorem State.resetOf_erract (c : Config) : (State.resetOf c).erract = 0 := rfl
@[simp] theorem State.resetOf_warnoff (c : Config) : (State.resetOf c).warnoff = 0 := rfl
@[simp] theorem State.resetOf_ibuf (c : Config) : (State.resetOf c).ibuf = [] := rfl
@[simp] theorem State.resetOf_obuf (c : Config) : (State.resetOf c).obuf = [] := rfl
@[simp] theorem State.resetOf_work (c : Config) : (State.resetOf c).work = none := rfl
@[simp] theorem State.resetOf_events (c : Config) : (State.resetOf c).events = [] := rfl
@[simp] theorem State.resetOf_rdata (c : Config) : (State.resetOf c).rdata = none := rfl
@[simp] theorem State.resetOf_draws (c : Config) : (State.resetOf c).draws = 0 := rfl

@[simp] theorem State.onReset_config (s : State) : (s.onReset).config = s.config := rfl
@[simp] theorem State.onReset_n (s : State) : (s.onReset).n = [] := rfl
@[simp] theorem State.onReset_hdr (s : State) : (s.onReset).hdr = Vector.replicate 12 0 := rfl
@[simp] theorem State.onReset_cfg (s : State) : (s.onReset).cfg = 0 := rfl
@[simp] theorem State.onReset_status (s : State) : (s.onReset).status = 0 := rfl
@[simp] theorem State.onReset_ilen (s : State) : (s.onReset).ilen = 0 := rfl
@[simp] theorem State.onReset_olen (s : State) : (s.onReset).olen = 0 := rfl
@[simp] theorem State.onReset_errcode (s : State) : (s.onReset).errcode = 0 := rfl
@[simp] theorem State.onReset_errstage (s : State) : (s.onReset).errstage = 0 := rfl
@[simp] theorem State.onReset_erroff (s : State) : (s.onReset).erroff = 0 := rfl
@[simp] theorem State.onReset_errexp (s : State) : (s.onReset).errexp = 0 := rfl
@[simp] theorem State.onReset_erract (s : State) : (s.onReset).erract = 0 := rfl
@[simp] theorem State.onReset_warnoff (s : State) : (s.onReset).warnoff = 0 := rfl
@[simp] theorem State.onReset_ibuf (s : State) : (s.onReset).ibuf = [] := rfl
@[simp] theorem State.onReset_obuf (s : State) : (s.onReset).obuf = [] := rfl
@[simp] theorem State.onReset_work (s : State) : (s.onReset).work = none := rfl
@[simp] theorem State.onReset_events (s : State) : (s.onReset).events = s.events := rfl
@[simp] theorem State.onReset_rdata (s : State) : (s.onReset).rdata = none := rfl
@[simp] theorem State.onReset_draws (s : State) : (s.onReset).draws = s.draws := rfl

/-! ## The bits of `CFG` -/

@[simp] theorem State.prologue_es (s : State) : (s.prologue).es = s.es := rfl
@[simp] theorem State.errorEntry_es (e : Err) (s : State) : (s.errorEntry e).es = s.es := rfl
@[simp] theorem State.commit_es (w : Commit) (s : State) : (s.commit w).es = s.es := rfl

/-! ## Inputs and images -/

@[simp] theorem State.prologue_input (s : State) : s.prologue.input = s.input := rfl
@[simp] theorem State.prologue_image (s : State) : s.prologue.image = s.image := rfl
@[simp] theorem State.errorEntry_image (e : Err) (s : State) : (s.errorEntry e).image = s.image := rfl
@[simp] theorem State.errorEntry_input (e : Err) (s : State) : (s.errorEntry e).input = s.input := rfl

end Sys2Proof.Machine
end

