-- ==== Sys2Proof/Laws/Memory.lean ====
section
/-! SUPPORT. The laws of byte cells: what a read gives after a store, and that every operation keeps the canonical
form. -/

namespace Sys2Proof.Machine

/-! ## Reading -/

@[simp] theorem Memory.read_nil (a : Nat) : Memory.read [] a = Memory.unlisted := rfl

theorem Memory.read_cons (k : Nat) (v : Byte) (m : Memory) (a : Nat) :
    Memory.read ((k, v) :: m) a = if k = a then v else Memory.read m a := rfl

/-- A cell that no entry names reads as an unlisted one. -/
theorem Memory.read_of_not_mem (m : Memory) (a : Nat) (h : ∀ x ∈ m, x.1 ≠ a) :
    m.read a = Memory.unlisted := by
  induction m with
  | nil => rfl
  | cons x m ih =>
    obtain ⟨k, v⟩ := x
    have hk : k ≠ a := h (k, v) (by simp)
    rw [Memory.read_cons, if_neg hk]
    exact ih (fun y hy => h y (List.mem_cons_of_mem _ hy))

/-- Reading skips entries put before that do not name the cell. -/
theorem Memory.read_append_right (m₁ m₂ : Memory) (a : Nat) (h : ∀ x ∈ m₁, x.1 ≠ a) :
    Memory.read (m₁ ++ m₂) a = Memory.read m₂ a := by
  induction m₁ with
  | nil => rfl
  | cons x m ih =>
    obtain ⟨k, v⟩ := x
    have hk : k ≠ a := h (k, v) (by simp)
    rw [List.cons_append, Memory.read_cons, if_neg hk]
    exact ih (fun y hy => h y (List.mem_cons_of_mem _ hy))

/-- Reading does not reach entries put after that do not name the cell. -/
theorem Memory.read_append_left (m₁ m₂ : Memory) (a : Nat) (h : ∀ x ∈ m₂, x.1 ≠ a) :
    Memory.read (m₁ ++ m₂) a = Memory.read m₁ a := by
  induction m₁ with
  | nil => exact Memory.read_of_not_mem m₂ a h
  | cons x m ih =>
    obtain ⟨k, v⟩ := x
    rw [List.cons_append, Memory.read_cons, Memory.read_cons, ih]

/-- A filter that keeps the entries of the cell does not change its reading. -/
theorem Memory.read_filter (m : Memory) (a : Nat) (p : Host.Cell → Bool) (h : ∀ v, p (a, v) = true) :
    Memory.read (m.filter p) a = m.read a := by
  induction m with
  | nil => rfl
  | cons x m ih =>
    obtain ⟨k, v⟩ := x
    by_cases hk : k = a
    · subst hk
      rw [List.filter_cons_of_pos (h v), Memory.read_cons, Memory.read_cons, if_pos rfl, if_pos rfl]
    · by_cases hp : p (k, v) = true
      · rw [List.filter_cons_of_pos hp, Memory.read_cons, Memory.read_cons, if_neg hk, if_neg hk, ih]
      · rw [List.filter_cons_of_neg hp, Memory.read_cons, if_neg hk, ih]

/-! ## The entries of a block -/

theorem Memory.entries_mem (a : Nat) (bs : List Byte) :
    ∀ x ∈ Memory.entries a bs, a ≤ x.1 ∧ x.1 < a + bs.length ∧ x.2 ≠ Memory.unlisted := by
  induction bs generalizing a with
  | nil => intro x hx; simp [Memory.entries] at hx
  | cons b bs ih =>
    intro x hx
    simp only [Memory.entries] at hx
    split at hx
    · obtain ⟨h1, h2, h3⟩ := ih (a + 1) x hx
      simp only [List.length_cons]
      exact ⟨by omega, by omega, h3⟩
    · rcases List.mem_cons.mp hx with rfl | hx
      · simp only [List.length_cons]
        exact ⟨by omega, by omega, ‹_›⟩
      · obtain ⟨h1, h2, h3⟩ := ih (a + 1) x hx
        simp only [List.length_cons]
        exact ⟨by omega, by omega, h3⟩

theorem Memory.entries_pairwise (a : Nat) (bs : List Byte) :
    (Memory.entries a bs).Pairwise (fun x y => x.1 < y.1) := by
  induction bs generalizing a with
  | nil => exact List.Pairwise.nil
  | cons b bs ih =>
    simp only [Memory.entries]
    split
    · exact ih (a + 1)
    · refine List.pairwise_cons.mpr ⟨fun y hy => ?_, ih (a + 1)⟩
      have := (Memory.entries_mem (a + 1) bs y hy).1
      simp only
      omega

theorem Memory.read_entries (a : Nat) (bs : List Byte) (i : Nat) :
    Memory.read (Memory.entries a bs) (a + i) = bs.getD i Memory.unlisted := by
  induction bs generalizing a i with
  | nil => simp [Memory.entries]
  | cons b bs ih =>
    simp only [Memory.entries]
    cases i with
    | zero =>
      split
      · rename_i hb
        rw [Memory.read_of_not_mem _ _ (fun x hx => by
          have := (Memory.entries_mem (a + 1) bs x hx).1; omega)]
        simp [hb]
      · simp [Memory.read_cons]
    | succ i =>
      have e : a + (i + 1) = (a + 1) + i := by omega
      split
      · rw [e, ih]; simp
      · rw [Memory.read_cons, if_neg (by omega), e, ih]; simp

/-! ## Reading after a store -/

/-- What a cell reads after a store: the byte stored there, or what it read before. -/
theorem Memory.read_store (m : Memory) (a : Nat) (bs : List Byte) (i : Nat) :
    (m.store a bs).read i =
      if a ≤ i ∧ i < a + bs.length then bs.getD (i - a) Memory.unlisted else m.read i := by
  unfold Memory.store
  split
  · rename_i h
    obtain ⟨j, rfl⟩ := Nat.exists_eq_add_of_le h.1
    rw [Memory.read_append_left _ _ _ (by
        intro x hx
        have := (List.mem_filter.mp hx).2
        simp only [decide_eq_true_eq] at this
        omega),
      Memory.read_append_right _ _ _ (by
        intro x hx
        have := (List.mem_filter.mp hx).2
        simp only [decide_eq_true_eq] at this
        omega),
      Memory.read_entries]
    simp
  · rename_i h
    by_cases hlt : i < a
    · rw [Memory.read_append_left _ _ _ (by
          intro x hx
          have := (List.mem_filter.mp hx).2
          simp only [decide_eq_true_eq] at this
          omega),
        Memory.read_append_left _ _ _ (by
          intro x hx
          have := (Memory.entries_mem a bs x hx).1
          omega),
        Memory.read_filter _ _ _ (by intro v; simpa using hlt)]
    · have hge : a + bs.length ≤ i := by omega
      rw [Memory.read_append_right _ _ _ (by
          intro x hx
          rcases List.mem_append.mp hx with hx | hx
          · have := (List.mem_filter.mp hx).2
            simp only [decide_eq_true_eq] at this
            omega
          · have := (Memory.entries_mem a bs x hx).2.1
            omega),
        Memory.read_filter _ _ _ (by intro v; simpa using hge)]

/-- What a cell reads after one write. -/
theorem Memory.read_write (m : Memory) (a : Nat) (b : Byte) (i : Nat) :
    (m.write a b).read i = if i = a then b else m.read i := by
  unfold Memory.write
  rw [Memory.read_store]
  by_cases h : i = a
  · subst h; simp
  · rw [if_neg h, if_neg (by simp only [List.length_cons, List.length_nil]; omega)]

/-! ## The canonical form -/

theorem Memory.wf_nil : Memory.wf [] := ⟨List.Pairwise.nil, by simp⟩

/-- The entries of a store: old ones outside the block, new ones inside. -/
theorem Memory.mem_store (m : Memory) (a : Nat) (bs : List Byte) (x : Host.Cell) (h : x ∈ m.store a bs) :
    x ∈ m ∨ (a ≤ x.1 ∧ x.1 < a + bs.length ∧ x.2 ≠ Memory.unlisted) := by
  unfold Memory.store at h
  rcases List.mem_append.mp h with h | h
  · rcases List.mem_append.mp h with h | h
    · exact .inl (List.mem_filter.mp h).1
    · exact .inr (Memory.entries_mem a bs x h)
  · exact .inl (List.mem_filter.mp h).1

/-- A store keeps the canonical form. -/
theorem Memory.wf_store (m : Memory) (a : Nat) (bs : List Byte) (h : m.wf) : (m.store a bs).wf := by
  refine ⟨?_, ?_⟩
  · unfold Memory.store
    refine List.pairwise_append.mpr ⟨List.pairwise_append.mpr
      ⟨h.1.filter _, Memory.entries_pairwise a bs, ?_⟩, h.1.filter _, ?_⟩
    · intro x hx y hy
      have h1 := (List.mem_filter.mp hx).2
      have h2 := (Memory.entries_mem a bs y hy).1
      simp only [decide_eq_true_eq] at h1
      omega
    · intro x hx y hy
      have h2 := (List.mem_filter.mp hy).2
      simp only [decide_eq_true_eq] at h2
      rcases List.mem_append.mp hx with hx | hx
      · have h1 := (List.mem_filter.mp hx).2
        simp only [decide_eq_true_eq] at h1
        omega
      · have h1 := (Memory.entries_mem a bs x hx).2.1
        omega
  · intro x hx
    rcases Memory.mem_store m a bs x hx with hx | hx
    · exact h.2 x hx
    · exact hx.2.2

/-- A write keeps the canonical form. -/
theorem Memory.wf_write (m : Memory) (a : Nat) (b : Byte) (h : m.wf) : (m.write a b).wf :=
  Memory.wf_store m a [b] h

/-- The entries of a write. -/
theorem Memory.mem_write (m : Memory) (a : Nat) (b : Byte) (x : Host.Cell) (h : x ∈ m.write a b) :
    x ∈ m ∨ x.1 = a := by
  rcases Memory.mem_store m a [b] x h with h | h
  · exact .inl h
  · simp only [List.length_cons, List.length_nil] at h
    exact .inr (by omega)

/-! ## Blocks of bytes -/

@[simp] theorem Memory.bytes_length (m : Memory) (a len : Nat) : (m.bytes a len).length = len := by
  simp [Memory.bytes]

theorem Memory.bytes_getD (m : Memory) (a len i : Nat) (h : i < len) :
    (m.bytes a len).getD i 0 = m.read (a + i) := by
  simp [Memory.bytes, List.getD, h]

/-- The bytes read back after a store at 0 are the bytes stored. -/
theorem Memory.bytes_store (m : Memory) (bs : List Byte) : (m.store 0 bs).bytes 0 bs.length = bs := by
  apply List.ext_getElem
  · simp
  · intro i h1 h2
    have e : (0 + 1 * i) = i := by omega
    simp only [Memory.bytes, List.getElem_map, List.getElem_range', e]
    rw [Memory.read_store, if_pos ⟨Nat.zero_le _, by omega⟩]
    simp [List.getD, h2]

end Sys2Proof.Machine
end

