-- ==== Sys2Proof/Laws/Ops.lean ====
section
/-! SUPPORT. What the shared operations do: the register file `N`, the frame of a data command, and its body's
possible outcomes. -/

namespace Sys2Proof.Machine

/-! ## The register file -/

/-- A hardwired cell reads 0 (10_state.md R23). -/
theorem readCell_of_rsvd (c : Config) (m : Memory) (i : Nat) (h : kindAt c i = .rsvd) : readCell c m i = 0 :=
  if_pos h

theorem readCell_of_ne (c : Config) (m : Memory) (i : Nat) (h : kindAt c i ≠ .rsvd) :
    readCell c m i = m.read i := if_neg h

/-- What a cell reads after a write of one cell. -/
theorem readCell_writeCell (c : Config) (m : Memory) (i : Nat) (b : Byte) (j : Nat) :
    readCell c (writeCell c m i b) j =
      if j = i ∧ i < natLen ∧ kindAt c i ≠ .rsvd then b else readCell c m j := by
  by_cases hw : i < natLen ∧ kindAt c i ≠ .rsvd
  · rw [writeCell, if_pos hw]
    by_cases hj : j = i
    · subst hj
      rw [if_pos ⟨rfl, hw⟩, readCell_of_ne _ _ _ hw.2, Memory.read_write, if_pos rfl]
    · rw [if_neg (fun h => hj h.1)]
      simp only [readCell, Memory.read_write, if_neg hj]
  · rw [writeCell, if_neg hw, if_neg (fun h => hw h.2)]

@[simp] theorem hardwired_length (c : Config) (i : Nat) (bs : List Byte) : (hardwired c i bs).length = bs.length := by
  induction bs generalizing i with
  | nil => rfl
  | cons b bs ih => simp [hardwired, ih]

theorem hardwired_getD (c : Config) (i : Nat) (bs : List Byte) (j : Nat) (h : j < bs.length) :
    (hardwired c i bs).getD j 0 = if kindAt c (i + j) = .rsvd then 0 else bs.getD j 0 := by
  induction bs generalizing i j with
  | nil => simp at h
  | cons b bs ih =>
    cases j with
    | zero => simp [hardwired]
    | succ j =>
      have h' : j < bs.length := by simpa using h
      have e : i + (j + 1) = (i + 1) + j := by omega
      rw [e]
      simpa [hardwired] using ih (i + 1) j h'

/-- What a cell reads after an image is written: the image's byte, 0 in a hardwired cell. -/
theorem readCell_writeCells (c : Config) (m : Memory) (bs : List Byte) (i : Nat) (h : i < bs.length) :
    readCell c (writeCells c m bs) i = if kindAt c i = .rsvd then 0 else bs.getD i 0 := by
  by_cases hk : kindAt c i = .rsvd
  · rw [readCell_of_rsvd _ _ _ hk, if_pos hk]
  · rw [readCell_of_ne _ _ _ hk, if_neg hk, writeCells, Memory.read_store, if_pos (by simpa using h)]
    have := hardwired_getD c 0 bs i h
    rw [Nat.zero_add, if_neg hk] at this
    simpa [Memory.unlisted] using this

@[simp] theorem State.image_length (s : State) : s.image.length = natLen := by simp [State.image]

theorem State.image_getD (s : State) (i : Nat) (h : i < natLen) : s.image.getD i 0 = readCell s.config s.n i := by
  simp [State.image, List.getD, h]

@[simp] theorem State.input_length (s : State) : s.input.length = s.ilen.toNat := by simp [State.input]

theorem State.input_getD (s : State) (i : Nat) (h : i < s.ilen.toNat) : s.input.getD i 0 = s.ibuf.read i := by
  rw [State.input, Memory.bytes_getD _ _ _ _ h, Nat.zero_add]

@[simp] theorem State.output_length (s : State) : s.output.length = s.olen.toNat := by simp [State.output]

/-! ## The frame of a data command -/

/-- A body that reaches its commit: the command is the prologue and the commit. -/
theorem State.dataCommand_of_ok (body : State → Except Err Commit) (s : State) (w : Commit)
    (h : body s.prologue = .ok w) : s.dataCommand body = s.prologue.commit w := by
  rw [State.dataCommand, h]; rfl

/-- A body that raises: the command is the prologue and the error entry. -/
theorem State.dataCommand_of_error (body : State → Except Err Commit) (s : State) (e : Err)
    (h : body s.prologue = .error e) : s.dataCommand body = s.prologue.errorEntry e := by
  rw [State.dataCommand, h]; rfl

/-- All that a data command can do. -/
theorem State.dataCommand_cases (body : State → Except Err Commit) (s : State) :
    (∃ w, body s.prologue = .ok w ∧ s.dataCommand body = s.prologue.commit w) ∨
    (∃ e, body s.prologue = .error e ∧ s.dataCommand body = s.prologue.errorEntry e) := by
  cases h : body s.prologue with
  | ok w => exact .inl ⟨w, rfl, State.dataCommand_of_ok body s w h⟩
  | error e => exact .inr ⟨e, rfl, State.dataCommand_of_error body s e h⟩

/-- A data command changes none of its inputs and none of the model's own fields. -/
theorem State.dataCommand_frame (body : State → Except Err Commit) (s : State) :
    (s.dataCommand body).config = s.config ∧ (s.dataCommand body).cfg = s.cfg ∧
    (s.dataCommand body).ilen = s.ilen ∧ (s.dataCommand body).ibuf = s.ibuf ∧
    (s.dataCommand body).events = s.events ∧ (s.dataCommand body).rdata = s.rdata ∧
    (s.dataCommand body).draws = s.draws ∧ (s.dataCommand body).work = none := by
  rcases State.dataCommand_cases body s with ⟨w, -, h⟩ | ⟨e, -, h⟩ <;> rw [h] <;> simp

/-- The output after a commit is the committed output. -/
theorem State.commit_output (w : Commit) (s : State) (h : w.out.length < 65536) : (s.commit w).output = w.out := by
  have e : (word w.out.length).toNat = w.out.length := by simp [word]; omega
  simp only [State.output, State.commit_obuf, State.commit_olen, e]
  exact Memory.bytes_store _ _

/-! ## What each body can answer -/

/-- The capacity check passes exactly up to `IBUF_CAP` (60_exceptions.md R203). -/
theorem capacityCheck_eq_none (s : State) : capacityCheck s = none ↔ s.ilen.toNat ≤ s.config.ibufCap := by
  unfold capacityCheck
  split <;> simp <;> omega

theorem bodyUnpk_of_fits (s : State) (h : s.ilen.toNat ≤ s.config.ibufCap) :
    bodyUnpk s = .ok { out := unpack s.input } := by
  rw [bodyUnpk, (capacityCheck_eq_none s).mpr h]

theorem bodyPack_of_fits (s : State) (h : s.ilen.toNat ≤ s.config.ibufCap) :
    bodyPack s = .ok { out := pack s.input } := by
  rw [bodyPack, (capacityCheck_eq_none s).mpr h]

/-- `RDEC`'s body: what a commit of it means. -/
theorem bodyRdec_eq_ok (s : State) (w : Commit) :
    bodyRdec s = .ok w ↔
      s.ilen.toNat = natLen ∧ ∃ warn, recWalk s.config s.es s.input = .ok warn ∧
        w = { image := some s.input, warn := warn } := by
  unfold bodyRdec
  by_cases hl : s.ilen.toNat = natLen
  · rw [if_neg (by simpa using hl)]
    cases h : recWalk s.config s.es s.input with
    | error e => simp
    | ok warn => simp [hl, eq_comm]
  · rw [if_pos hl]; simp [hl]

/-- `RENC`'s body: what a commit of it means. -/
theorem bodyRenc_eq_ok (s : State) (w : Commit) :
    bodyRenc s = .ok w ↔
      ∃ warn, recWalk s.config s.es s.image = .ok warn ∧ w = { out := s.image, warn := warn } := by
  unfold bodyRenc
  cases h : recWalk s.config s.es s.image with
  | error e => simp
  | ok warn => simp [eq_comm]

/-- `FENC`'s body: what a commit of it means. -/
theorem bodyFenc_eq_ok (s : State) (w : Commit) :
    bodyFenc s = .ok w ↔
      headerCheck s.config s.hdr = none ∧ ∃ warn, recWalk s.config s.es s.image = .ok warn ∧
        w = { out := frameBuild s.hdr s.image, warn := warn } := by
  unfold bodyFenc
  cases hh : headerCheck s.config s.hdr with
  | some e => simp
  | none =>
    cases h : recWalk s.config s.es s.image with
    | error e => simp
    | ok warn => simp [eq_comm]

end Sys2Proof.Machine
end

