-- ==== Sys2Proof/Laws/Line.lean ====
section
/-! SUPPORT. The line codec: what its steps give, and how a sequence is cut into chunks. -/

namespace Sys2Proof.Machine

@[simp] theorem unpackFrom_nil (k : BitVec 3) (bm : Byte) : unpackFrom k bm [] = [] := rfl

/-- The step at the start of a chunk stores the bitmap (40_unpack.md R111). -/
theorem ustep_bitmap (bm b : Byte) : ustep 0 bm b = { k := 1, bm := b, out := none } := rfl

/-- A step inside a chunk gives one byte (40_unpack.md R111). -/
theorem ustep_data (k : BitVec 3) (bm b : Byte) (h : k ≠ 0) :
    ustep k bm b = { k := k + 1, bm := bm, out := some (naturalByte bm (k.toNat - 1) b) } := if_neg h

theorem unpackFrom_bitmap (bm b : Byte) (bs : List Byte) : unpackFrom 0 bm (b :: bs) = unpackFrom 1 b bs := rfl

theorem unpackFrom_data (k : BitVec 3) (bm b : Byte) (bs : List Byte) (h : k ≠ 0) :
    unpackFrom k bm (b :: bs) = naturalByte bm (k.toNat - 1) b :: unpackFrom (k + 1) bm bs := by
  rw [unpackFrom, ustep_data k bm b h]; rfl

/-- The bitmap left over from the chunk before is never read (40_unpack.md R111). -/
theorem unpackFrom_zero_bm (bm bm' : Byte) (bs : List Byte) : unpackFrom 0 bm bs = unpackFrom 0 bm' bs := by
  cases bs <;> rfl

/-- One full chunk: the seven lanes of 40_unpack.md R115, then the rest. -/
theorem unpack_chunk (bm d0 d1 d2 d3 d4 d5 d6 : Byte) (rest : List Byte) :
    unpack (bm :: d0 :: d1 :: d2 :: d3 :: d4 :: d5 :: d6 :: rest) =
      naturalByte bm 0 d0 :: naturalByte bm 1 d1 :: naturalByte bm 2 d2 :: naturalByte bm 3 d3 ::
      naturalByte bm 4 d4 :: naturalByte bm 5 d5 :: naturalByte bm 6 d6 :: unpack rest := by
  unfold unpack
  rw [unpackFrom_bitmap, unpackFrom_data _ _ _ _ (by decide), unpackFrom_data _ _ _ _ (by decide),
    unpackFrom_data _ _ _ _ (by decide), unpackFrom_data _ _ _ _ (by decide),
    unpackFrom_data _ _ _ _ (by decide), unpackFrom_data _ _ _ _ (by decide),
    unpackFrom_data _ _ _ _ (by decide)]
  exact congrArg _ (congrArg _ (congrArg _ (congrArg _ (congrArg _ (congrArg _ (congrArg _
    (unpackFrom_zero_bm bm 0 rest)))))))

/-- One full chunk packed, then the rest (41_pack.md R121). -/
theorem pack_chunk (a b c d e f g : Byte) (rest : List Byte) :
    pack (a :: b :: c :: d :: e :: f :: g :: rest) = packChunk [a, b, c, d, e, f, g] ++ pack rest := rfl

@[simp] theorem pack_nil : pack [] = [] := rfl

@[simp] theorem packChunk_length (xs : List Byte) : (packChunk xs).length = xs.length + 1 := by simp [packChunk]

/-- The working registers consume bytes as the unpacker's steps do: the staged bytes grow by what the unpacker gives. -/
theorem Line.foldl_consume_out (l : Line) (bs : List Byte) :
    (bs.foldl Line.consume l).out = l.out ++ unpackFrom l.k l.bm bs := by
  induction bs generalizing l with
  | nil => simp
  | cons b bs ih =>
    rw [List.foldl_cons, ih]
    simp [Line.consume, unpackFrom, List.append_assoc]

/-! ## The line registers: one lemma per update and field -/

@[simp] theorem Line.consume_ip (l : Line) (b : Byte) : (l.consume b).ip = l.ip + 1 := rfl
@[simp] theorem Line.skip_ip (l : Line) : l.skip.ip = l.ip + 1 := rfl
@[simp] theorem Line.skip_op (l : Line) : l.skip.op = l.op := rfl
@[simp] theorem Line.skip_k (l : Line) : l.skip.k = l.k := rfl
@[simp] theorem Line.skip_bm (l : Line) : l.skip.bm = l.bm := rfl
@[simp] theorem Line.skip_out (l : Line) : l.skip.out = l.out := rfl
@[simp] theorem Line.emit_ip (l : Line) (b : Byte) : (l.emit b).ip = l.ip := rfl
@[simp] theorem Line.emit_op (l : Line) (b : Byte) : (l.emit b).op = l.op + 1 := rfl
@[simp] theorem Line.emit_k (l : Line) (b : Byte) : (l.emit b).k = l.k := rfl
@[simp] theorem Line.emit_bm (l : Line) (b : Byte) : (l.emit b).bm = l.bm := rfl
@[simp] theorem Line.emit_out (l : Line) (b : Byte) : (l.emit b).out = l.out ++ [b] := rfl
@[simp] theorem Line.emitPacked_ip (l : Line) (b : Byte) : (l.emitPacked b).ip = l.ip := rfl
@[simp] theorem Line.emitPacked_op (l : Line) (b : Byte) : (l.emitPacked b).op = l.op + 1 := rfl
@[simp] theorem Line.emitPacked_k (l : Line) (b : Byte) : (l.emitPacked b).k = l.k + 1 := rfl
@[simp] theorem Line.emitPacked_out (l : Line) (b : Byte) : (l.emitPacked b).out = l.out ++ [b] := rfl

/-- A consumed byte is stored as the bitmap, and `OP` stays, or gives one byte of output (10_state.md R40, R41). -/
theorem Line.consume_cases (l : Line) (b : Byte) :
    (l.k = 0 ∧ l.consume b = { l with ip := l.ip + 1, k := 1, bm := b }) ∨
    (l.k ≠ 0 ∧ l.consume b =
      { l with ip := l.ip + 1, op := l.op + 1, k := l.k + 1,
               out := l.out ++ [naturalByte l.bm (l.k.toNat - 1) b] }) := by
  by_cases h : l.k = 0
  · exact .inl ⟨h, by unfold Line.consume; rw [h, ustep_bitmap]; simp⟩
  · exact .inr ⟨h, by simp [Line.consume, ustep_data _ _ _ h]⟩

end Sys2Proof.Machine
end

