-- ==== Sys2Proof/Laws/Record.lean ====
section
/-! SUPPORT. The record walker: the rules of the kinds, and one cell at a time. -/

namespace Sys2Proof.Machine

/-- A rule raises only for a reserved byte or an unrecognised enumeration byte, and passes every other byte. -/
theorem ruleEnum_cases (e : Kind) (c : Config) (es : Bool) (np : Nat) (b : Byte) :
    (∃ v, enumDecode c e b = .known v ∧ ruleEnum e c es np b = .ok false) ∨
    (enumDecode c e b = .unrecognized b ∧ es = false ∧ ruleEnum e c es np b = .ok true) ∨
    (enumDecode c e b = .unrecognized b ∧ es = true ∧
      ruleEnum e c es np b =
        .error ⟨.unrecognizedEnum, .natural, word np, (kindCode e).setWidth 16, b.setWidth 16⟩) := by
  unfold ruleEnum enumDecode
  cases h : e.variants.find? (fun v => c.enumCode.code v == b) with
  | some v => exact .inl ⟨v, rfl, rfl⟩
  | none => cases es <;> simp

@[simp] theorem noteWarn_some (i np : Nat) (u : Bool) : noteWarn (some i) np u = some i := by cases u <;> rfl

@[simp] theorem noteWarn_false (w : Option Nat) (np : Nat) : noteWarn w np false = w := by cases w <;> rfl

@[simp] theorem noteWarn_none_true (np : Nat) : noteWarn none np true = some np := rfl

@[simp] theorem recWalkFrom_nil (c : Config) (es : Bool) (np : Nat) (w : Option Nat) :
    recWalkFrom c es np w [] = .ok w := rfl

/-- One cell of the walk. -/
theorem recWalkFrom_cons (c : Config) (es : Bool) (np : Nat) (w : Option Nat) (b : Byte) (bs : List Byte) :
    recWalkFrom c es np w (b :: bs) =
      match kindRule (kindAt c np) c es np b with
      | .error e => .error e
      | .ok u => recWalkFrom c es (np + 1) (noteWarn w np u) bs := rfl

/-- All that a descriptor can do with a cell. -/
theorem State.walkCell_cases (rule : Config → Bool → Nat → Byte → Except Err Bool) (s : State) :
    (s.cell = none ∧ s.walkCell rule = .refused .noCell) ∨
    (∃ w b e, s.cell = some (w, b) ∧ rule s.config s.es w.np b = .error e ∧
      s.walkCell rule = .next (s.errorEntry e)) ∨
    (∃ w b u, s.cell = some (w, b) ∧ rule s.config s.es w.np b = .ok u ∧
      s.walkCell rule =
        .next { s with work := some { w with np := w.np + 1, warn := noteWarn w.warn w.np u } }) := by
  unfold State.walkCell
  cases hc : s.cell with
  | none => exact .inl ⟨rfl, rfl⟩
  | some wb =>
    obtain ⟨w, b⟩ := wb
    cases hr : rule s.config s.es w.np b with
    | error e => exact .inr (.inl ⟨w, b, e, rfl, hr, by simp [hr]⟩)
    | ok u => exact .inr (.inr ⟨w, b, u, rfl, hr, by simp [hr]⟩)

/-- The cell at the cursor: a walk is under way and the staged image has a byte there. -/
theorem State.cell_eq_some (s : State) (w : Work) (b : Byte) :
    s.cell = some (w, b) ↔ s.work = some w ∧ w.image[w.np]? = some b := by
  unfold State.cell
  cases hw : s.work with
  | none => simp
  | some w' =>
    simp only [Option.some.injEq]
    cases hb : w'.image[w'.np]? with
    | none =>
      refine ⟨fun h => by simp at h, ?_⟩
      rintro ⟨rfl, h⟩
      rw [hb] at h
      cases h
    | some b' =>
      simp only [Option.some.injEq, Prod.mk.injEq]
      constructor
      · rintro ⟨rfl, rfl⟩; exact ⟨rfl, hb⟩
      · rintro ⟨rfl, h⟩; rw [hb] at h; exact ⟨rfl, by simpa using h⟩

end Sys2Proof.Machine
end

