-- ==== Sys2Proof/Laws/Step.lean ====
section
/-! SUPPORT. All that a step can do, case by case. -/

namespace Sys2Proof.Machine

/-- What a fetched transition answers. -/
def Fetched.outcome : Fetched → Host.Outcome State Fault Refusal
  | .run i s => exec i s
  | .other o => o

theorem step_eq (s : State) : step s = s.fetch.outcome := by
  unfold step
  cases s.fetch <;> rfl

/-- A pending event, no command under way. -/
theorem step_event (s : State) (e : HostEvent) (rest : List HostEvent) (hw : s.work = none)
    (he : s.events = e :: rest) : step s = (State.fetchEvent e (s.take rest)).outcome := by
  rw [step_eq]
  unfold State.fetch
  rw [hw, he]

/-- No event and no command (log 3). -/
theorem step_idle (s : State) (hw : s.work = none) (he : s.events = []) : step s = .next s := by
  rw [step_eq]
  unfold State.fetch
  rw [hw, he]
  rfl

/-- A command under way. -/
theorem step_work (s : State) (w : Work) (hw : s.work = some w) : step s = (s.fetchWork w).outcome := by
  rw [step_eq]
  unfold State.fetch
  rw [hw]

/-- A step of a command that takes a byte of input, or goes on to what follows it. -/
theorem step_take (s : State) (w : Work) (hw : s.work = some w) (hp : w.phase = .take) :
    step s = .next (s.takeStep w) := by
  rw [step_work s w hw]
  unfold State.fetchWork
  rw [hp]
  rfl

/-- A step of `FENC` that produces a byte of the frame's header, or its marker. -/
theorem step_head (s : State) (w : Work) (hw : s.work = some w) (hp : w.phase = .head) :
    step s = .next (s.headStep w) := by
  rw [step_work s w hw]
  unfold State.fetchWork
  rw [hp]
  rfl

/-- A step of a command that produces a byte of its output, or commits. -/
theorem step_emit (s : State) (w : Work) (hw : s.work = some w) (hp : w.phase = .emit) :
    step s = .next (s.emitStep w) := by
  rw [step_work s w hw]
  unfold State.fetchWork
  rw [hp]
  rfl

/-- The end of a walk. -/
theorem step_walk_end (s : State) (w : Work) (hw : s.work = some w) (hp : w.phase = .walk) (hn : ¬ w.np < natLen) :
    step s = .next (s.walkEnd w) := by
  rw [step_work s w hw]
  unfold State.fetchWork
  simp only [hp, if_neg hn]
  rfl

/-- The descriptor of a kind. -/
def descriptor : Kind → Instr
  | .u8 => .u8
  | .mode => .mode
  | .led => .led
  | .assign => .assign
  | .behav => .behav
  | .rsvd => .rsvd

/-- Every kind's code is read as its descriptor (30_encoding.md R88). -/
theorem decode_kindCode (e : Kind) : decode (.fdesc (kindCode e)) = .ok (descriptor e) := by cases e <;> rfl

/-- A descriptor applies its kind's rule to the cell at the cursor. -/
theorem exec_descriptor (e : Kind) (s : State) : exec (descriptor e) s = s.walkCell (kindRule e) := by
  cases e <;> rfl

/-- One cell of a walk. -/
theorem step_walk (s : State) (w : Work) (hw : s.work = some w) (hp : w.phase = .walk) (hn : w.np < natLen) :
    step s = s.walkCell (kindRule (kindAt s.config w.np)) := by
  rw [step_work s w hw]
  unfold State.fetchWork
  simp only [hp, if_pos hn, decode_kindCode]
  exact exec_descriptor _ _

/-! ## The passes of an unfolded command -/

/-- All that a frame byte can do at `IP`: `IP` moves on by one, over a byte that is checked or through the unpacker, or
the check raises with `IP` as the offset (10_state.md R40, 43_frame.md R161). -/
theorem Work.takeFrameByte_cases (c : Config) (w : Work) (b : Byte) :
    (∃ h, w.takeFrameByte c b = .ok { w with hdr := h, line := w.line.skip }) ∨
    w.takeFrameByte c b = .ok { w with line := w.line.consume b } ∨
    ∃ v, w.takeFrameByte c b = .error (headerErr w.line.ip v b) := by
  unfold Work.takeFrameByte
  split
  · split
    · exact .inl ⟨_, rfl⟩
    · exact .inr (.inr ⟨_, rfl⟩)
  · split
    · rename_i _ h
      split
      · exact .inl ⟨_, rfl⟩
      · exact .inr (.inr ⟨_, by rw [h]⟩)
    · split
      · rename_i _ _ h
        split
        · exact .inl ⟨_, rfl⟩
        · exact .inr (.inr ⟨_, by rw [h]⟩)
      · exact .inr (.inl rfl)

/-- All that a step of the first pass of `FENC` can do: the next byte of the frame's head, or an error with `OP` as the
offset (10_state.md R40, 43_frame.md R170). -/
theorem State.headStep_cases (s : State) (w : Work) :
    (∃ b p, s.headStep w = { s with work := some { w with phase := p, line := w.line.emit b } }) ∨
    ∃ v b, s.headStep w = s.errorEntry (headerErr w.line.op v b) := by
  unfold State.headStep
  split
  · split
    · exact .inl ⟨_, w.phase, rfl⟩
    · exact .inr ⟨_, _, rfl⟩
  · exact .inl ⟨_, _, rfl⟩

/-- A byte of output moves `OP` on by one in the commands that have one (10_state.md R40). -/
theorem Work.emitLine_cases (w : Work) (h : w.line.op < w.outLen) :
    (∃ b, w.emitLine = w.line.emit b) ∨ ∃ b, w.emitLine = w.line.emitPacked b := by
  unfold Work.emitLine
  unfold Work.outLen at h
  cases hc : w.cmd <;> simp only [hc] at h ⊢
  · exact absurd h (Nat.not_lt_zero _)
  · exact .inr ⟨_, rfl⟩
  · exact absurd h (Nat.not_lt_zero _)
  · exact .inl ⟨_, rfl⟩
  · exact absurd h (Nat.not_lt_zero _)
  · split
    · exact .inr ⟨_, rfl⟩
    · exact .inl ⟨_, rfl⟩

/-! ## Taking an event -/

@[simp] theorem State.take_config (r : List HostEvent) (s : State) : (s.take r).config = s.config := rfl
@[simp] theorem State.take_n (r : List HostEvent) (s : State) : (s.take r).n = s.n := rfl
@[simp] theorem State.take_hdr (r : List HostEvent) (s : State) : (s.take r).hdr = s.hdr := rfl
@[simp] theorem State.take_cfg (r : List HostEvent) (s : State) : (s.take r).cfg = s.cfg := rfl
@[simp] theorem State.take_status (r : List HostEvent) (s : State) : (s.take r).status = s.status := rfl
@[simp] theorem State.take_ilen (r : List HostEvent) (s : State) : (s.take r).ilen = s.ilen := rfl
@[simp] theorem State.take_olen (r : List HostEvent) (s : State) : (s.take r).olen = s.olen := rfl
@[simp] theorem State.take_errcode (r : List HostEvent) (s : State) : (s.take r).errcode = s.errcode := rfl
@[simp] theorem State.take_errstage (r : List HostEvent) (s : State) : (s.take r).errstage = s.errstage := rfl
@[simp] theorem State.take_erroff (r : List HostEvent) (s : State) : (s.take r).erroff = s.erroff := rfl
@[simp] theorem State.take_errexp (r : List HostEvent) (s : State) : (s.take r).errexp = s.errexp := rfl
@[simp] theorem State.take_erract (r : List HostEvent) (s : State) : (s.take r).erract = s.erract := rfl
@[simp] theorem State.take_warnoff (r : List HostEvent) (s : State) : (s.take r).warnoff = s.warnoff := rfl
@[simp] theorem State.take_ibuf (r : List HostEvent) (s : State) : (s.take r).ibuf = s.ibuf := rfl
@[simp] theorem State.take_obuf (r : List HostEvent) (s : State) : (s.take r).obuf = s.obuf := rfl
@[simp] theorem State.take_work (r : List HostEvent) (s : State) : (s.take r).work = s.work := rfl
@[simp] theorem State.take_events (r : List HostEvent) (s : State) : (s.take r).events = r := rfl
@[simp] theorem State.take_rdata (r : List HostEvent) (s : State) : (s.take r).rdata = none := rfl
@[simp] theorem State.take_draws (r : List HostEvent) (s : State) : (s.take r).draws = s.draws := rfl

/-- The transition of each event (44_control.md R189). -/
theorem fetchEvent_reset (s : State) : (State.fetchEvent .reset s).outcome = .next s.onReset := rfl

theorem fetchEvent_rd (a : Addr) (s : State) : (State.fetchEvent (.rd a) s).outcome = s.busRead a := rfl

theorem fetchEvent_push (d : Word) (s : State) :
    (State.fetchEvent (.wr 0x003 d) s).outcome = exec (.push (d.setWidth 8)) s := rfl

theorem fetchEvent_cmd (w : Word) (s : State) (i : Instr) (h : decode (.cmd w) = .ok i) :
    (State.fetchEvent (.wr 0x000 w) s).outcome = exec i s := by
  have e : decode (.buswr 0x000 w) = .error (.notPush 0x000) := rfl
  simp only [State.fetchEvent, e, if_true, h]
  rfl

theorem fetchEvent_illegal (w : Word) (s : State) (e : DecodeError) (h : decode (.cmd w) = .error e) :
    (State.fetchEvent (.wr 0x000 w) s).outcome = .next (s.illegalCommand w) := by
  have e : decode (.buswr 0x000 w) = .error (.notPush 0x000) := rfl
  simp only [State.fetchEvent, e, if_true, h]
  rfl

theorem fetchEvent_write (a : Addr) (d : Word) (s : State) (h0 : a ≠ 0x000) (h3 : a ≠ 0x003) :
    (State.fetchEvent (.wr a d) s).outcome = s.busWrite a d := by
  have e : decode (.buswr a d) = .error (.notPush a) := if_neg h3
  simp only [State.fetchEvent, e, if_neg h0]
  rfl

end Sys2Proof.Machine
end

