-- ==== Sys2Proof/Laws/Bus.lean ====
section
/-! SUPPORT. The register map and the accesses to it: all that a read and a write can do. -/

namespace Sys2Proof.Machine

/-- The map's locations, each at its addresses (20_memory.md R61). -/
theorem locate_cases (c : Config) (a : Addr) :
    (locate c a = .cmd ∧ a = 0x000) ∨ (locate c a = .status ∧ a = 0x001) ∨ (locate c a = .cfg ∧ a = 0x002) ∨
    (locate c a = .din ∧ a = 0x003) ∨ (locate c a = .ilen ∧ a = 0x004) ∨ (locate c a = .olen ∧ a = 0x005) ∨
    (locate c a = .errcode ∧ a = 0x006) ∨ (locate c a = .errstage ∧ a = 0x007) ∨
    (locate c a = .erroff ∧ a = 0x008) ∨ (locate c a = .errexp ∧ a = 0x009) ∨
    (locate c a = .erract ∧ a = 0x00A) ∨ (locate c a = .warnoff ∧ a = 0x00B) ∨
    (∃ i : Fin 12, locate c a = .hdr i ∧ a.toNat = 0x010 + i.val) ∨
    (∃ i, locate c a = .n i ∧ i < 339 ∧ a.toNat = 0x200 + i) ∨
    (∃ i, locate c a = .tag i ∧ i < 339 ∧ a.toNat = 0x400 + i) ∨
    (∃ i, locate c a = .obuf i ∧ i < c.obufCap ∧ a.toNat = 0x800 + i) ∨
    (locate c a = .unmapped ∧ 0x00B < a.toNat ∧ ¬ (0x010 ≤ a.toNat ∧ a.toNat < 0x010 + 12) ∧
      ¬ (0x200 ≤ a.toNat ∧ a.toNat < 0x200 + 339) ∧ ¬ (0x400 ≤ a.toNat ∧ a.toNat < 0x400 + 339) ∧
      ¬ (0x800 ≤ a.toNat ∧ a.toNat < 0x800 + c.obufCap)) := by
  have lit : ∀ k : Nat, k < 4096 → a.toNat = k → a = BitVec.ofNat 12 k := fun k _ h => by rw [← h]; simp
  unfold locate
  by_cases h0 : a.toNat = 0
  · exact .inl ⟨by simp [h0], lit 0 (by omega) h0⟩
  by_cases h1 : a.toNat = 1
  · exact .inr <| .inl ⟨by simp [h1], lit 1 (by omega) h1⟩
  by_cases h2 : a.toNat = 2
  · exact .inr <| .inr <| .inl ⟨by simp [h2], lit 2 (by omega) h2⟩
  by_cases h3 : a.toNat = 3
  · exact .inr <| .inr <| .inr <| .inl ⟨by simp [h3], lit 3 (by omega) h3⟩
  by_cases h4 : a.toNat = 4
  · exact .inr <| .inr <| .inr <| .inr <| .inl ⟨by simp [h4], lit 4 (by omega) h4⟩
  by_cases h5 : a.toNat = 5
  · exact .inr <| .inr <| .inr <| .inr <| .inr <| .inl ⟨by simp [h5], lit 5 (by omega) h5⟩
  by_cases h6 : a.toNat = 6
  · exact .inr <| .inr <| .inr <| .inr <| .inr <| .inr <| .inl ⟨by simp [h6], lit 6 (by omega) h6⟩
  by_cases h7 : a.toNat = 7
  · exact .inr <| .inr <| .inr <| .inr <| .inr <| .inr <| .inr <| .inl ⟨by simp [h7], lit 7 (by omega) h7⟩
  by_cases h8 : a.toNat = 8
  · exact .inr <| .inr <| .inr <| .inr <| .inr <| .inr <| .inr <| .inr <| .inl ⟨by simp [h8], lit 8 (by omega) h8⟩
  by_cases h9 : a.toNat = 9
  · exact .inr <| .inr <| .inr <| .inr <| .inr <| .inr <| .inr <| .inr <| .inr <| .inl ⟨by simp [h9], lit 9 (by omega) h9⟩
  by_cases h10 : a.toNat = 10
  · exact .inr <| .inr <| .inr <| .inr <| .inr <| .inr <| .inr <| .inr <| .inr <| .inr <| .inl ⟨by simp [h10], lit 10 (by omega) h10⟩
  by_cases h11 : a.toNat = 11
  · exact .inr <| .inr <| .inr <| .inr <| .inr <| .inr <| .inr <| .inr <| .inr <| .inr <| .inr <| .inl ⟨by simp [h11], lit 11 (by omega) h11⟩
  simp only [h0, h1, h2, h3, h4, h5, h6, h7, h8, h9, h10, h11, if_false]
  iterate 12 right
  by_cases hh : 0x010 ≤ a.toNat ∧ a.toNat < 0x010 + 12
  · exact .inl ⟨⟨a.toNat - 0x010, by omega⟩, by rw [dif_pos hh], by simp only; omega⟩
  rw [dif_neg hh]
  by_cases hn : 0x200 ≤ a.toNat ∧ a.toNat < 0x200 + 339
  · exact .inr (.inl ⟨_, if_pos hn, by omega, by omega⟩)
  rw [if_neg hn]
  by_cases ht : 0x400 ≤ a.toNat ∧ a.toNat < 0x400 + 339
  · exact .inr (.inr (.inl ⟨_, if_pos ht, by omega, by omega⟩))
  rw [if_neg ht]
  by_cases ho : 0x800 ≤ a.toNat ∧ a.toNat < 0x800 + c.obufCap
  · exact .inr (.inr (.inr (.inl ⟨_, if_pos ho, by omega, by omega⟩)))
  rw [if_neg ho]
  exact .inr (.inr (.inr (.inr ⟨rfl, by omega, hh, hn, ht, ho⟩)))

/-- The location of an address given as a number. -/
theorem toNat_addr (k : Nat) (h : k < 4096) : (BitVec.ofNat 12 k).toNat = k := by
  rw [BitVec.toNat_ofNat]; omega

/-- The header registers' addresses. -/
theorem locate_hdr (c : Config) (i : Fin 12) : locate c (BitVec.ofNat 12 (0x010 + i.val)) = .hdr i := by
  have e := toNat_addr (0x010 + i.val) (by omega)
  have h := locate_cases c (BitVec.ofNat 12 (0x010 + i.val))
  generalize BitVec.ofNat 12 (0x010 + i.val) = a at e h
  rcases h with ⟨_, rfl⟩ | ⟨_, rfl⟩ | ⟨_, rfl⟩ | ⟨_, rfl⟩ | ⟨_, rfl⟩ | ⟨_, rfl⟩ | ⟨_, rfl⟩ | ⟨_, rfl⟩ |
    ⟨_, rfl⟩ | ⟨_, rfl⟩ | ⟨_, rfl⟩ | ⟨_, rfl⟩ | ⟨j, h, hj⟩ | ⟨j, h, hj⟩ | ⟨j, h, hj⟩ | ⟨j, h, hj⟩ | ⟨h, hj⟩
  case inr.inr.inr.inr.inr.inr.inr.inr.inr.inr.inr.inr.inl =>
    rw [h]; congr 1; ext; omega
  all_goals first | omega | (simp only [BitVec.toNat_ofNat, BitVec.ofNat_eq_ofNat] at e; omega)

/-- The record's addresses. -/
theorem locate_n (c : Config) (i : Nat) (hi : i < natLen) : locate c (BitVec.ofNat 12 (0x200 + i)) = .n i := by
  unfold natLen at hi
  have e := toNat_addr (0x200 + i) (by omega)
  have h := locate_cases c (BitVec.ofNat 12 (0x200 + i))
  generalize BitVec.ofNat 12 (0x200 + i) = a at e h
  rcases h with ⟨_, rfl⟩ | ⟨_, rfl⟩ | ⟨_, rfl⟩ | ⟨_, rfl⟩ | ⟨_, rfl⟩ | ⟨_, rfl⟩ | ⟨_, rfl⟩ | ⟨_, rfl⟩ |
    ⟨_, rfl⟩ | ⟨_, rfl⟩ | ⟨_, rfl⟩ | ⟨_, rfl⟩ | ⟨j, h, hj⟩ | ⟨j, h, hj⟩ | ⟨j, h, hj⟩ | ⟨j, h, hj⟩ | ⟨h, hj⟩
  case inr.inr.inr.inr.inr.inr.inr.inr.inr.inr.inr.inr.inr.inl =>
    rw [h]; congr 1; omega
  all_goals first | omega | (simp only [BitVec.toNat_ofNat, BitVec.ofNat_eq_ofNat] at e; omega)

/-- The tags' addresses. -/
theorem locate_tag (c : Config) (i : Nat) (hi : i < natLen) :
    locate c (BitVec.ofNat 12 (0x400 + i)) = .tag i := by
  unfold natLen at hi
  have e := toNat_addr (0x400 + i) (by omega)
  have h := locate_cases c (BitVec.ofNat 12 (0x400 + i))
  generalize BitVec.ofNat 12 (0x400 + i) = a at e h
  rcases h with ⟨_, rfl⟩ | ⟨_, rfl⟩ | ⟨_, rfl⟩ | ⟨_, rfl⟩ | ⟨_, rfl⟩ | ⟨_, rfl⟩ | ⟨_, rfl⟩ | ⟨_, rfl⟩ |
    ⟨_, rfl⟩ | ⟨_, rfl⟩ | ⟨_, rfl⟩ | ⟨_, rfl⟩ | ⟨j, h, hj⟩ | ⟨j, h, hj⟩ | ⟨j, h, hj⟩ | ⟨j, h, hj⟩ | ⟨h, hj⟩
  case inr.inr.inr.inr.inr.inr.inr.inr.inr.inr.inr.inr.inr.inr.inl =>
    rw [h]; congr 1; omega
  all_goals first | omega | (simp only [BitVec.toNat_ofNat, BitVec.ofNat_eq_ofNat] at e; omega)

/-- The output buffer's addresses. -/
theorem locate_obuf (c : Config) (i : Nat) (hi : 0x800 + i < 4096) :
    locate c (BitVec.ofNat 12 (0x800 + i)) = if i < c.obufCap then .obuf i else .unmapped := by
  have e := toNat_addr (0x800 + i) hi
  have h := locate_cases c (BitVec.ofNat 12 (0x800 + i))
  generalize BitVec.ofNat 12 (0x800 + i) = a at e h
  rcases h with ⟨_, rfl⟩ | ⟨_, rfl⟩ | ⟨_, rfl⟩ | ⟨_, rfl⟩ | ⟨_, rfl⟩ | ⟨_, rfl⟩ | ⟨_, rfl⟩ | ⟨_, rfl⟩ |
    ⟨_, rfl⟩ | ⟨_, rfl⟩ | ⟨_, rfl⟩ | ⟨_, rfl⟩ | ⟨j, h, hj⟩ | ⟨j, h, hj⟩ | ⟨j, h, hj⟩ | ⟨j, h, hj⟩ | ⟨h, hj⟩
  case inr.inr.inr.inr.inr.inr.inr.inr.inr.inr.inr.inr.inr.inr.inr.inl =>
    rw [h, if_pos (by omega)]; congr 1; omega
  case inr.inr.inr.inr.inr.inr.inr.inr.inr.inr.inr.inr.inr.inr.inr.inr =>
    rw [h, if_neg (by omega)]
  all_goals first | omega | (simp only [BitVec.toNat_ofNat, BitVec.ofNat_eq_ofNat] at e; omega)

/-- A read of the output (20_memory.md R68). -/
theorem State.readObuf_lt (i : Nat) (s : State) (h : i < s.olen.toNat) :
    s.readObuf i = .next { s with rdata := some ((s.obuf.read i).setWidth 16) } := if_pos h

/-- A read at or above `OLEN` draws a byte (20_memory.md R68). -/
theorem State.readObuf_ge (i : Nat) (s : State) (h : s.olen.toNat ≤ i) :
    s.readObuf i = .next { s with rdata := some ((Config.unspecifiedByte s.draws).setWidth 16),
                                  draws := s.draws + 1 } := if_neg (by omega)

/-- All that a write outside the two ports can do: store, or be refused. -/
theorem State.busWrite_cases (a : Addr) (d : Word) (s : State) :
    (∃ i, locate s.config a = .n i ∧
      s.busWrite a d = .next { s with n := writeCell s.config s.n i (d.setWidth 8) }) ∨
    (∃ i, locate s.config a = .hdr i ∧ s.busWrite a d = .next { s with hdr := s.hdr.set i (d.setWidth 8) }) ∨
    (locate s.config a = .cfg ∧ s.busWrite a d = .next { s with cfg := cfgWrite d }) ∨
    (∃ r : Refusal, s.busWrite a d = .refused r ∧
      (r = .unmapped a ∨ r = .writeOfReadOnly a)) := by
  unfold State.busWrite
  cases locate s.config a <;> simp

/-- All that a read can do: answer a word, answer a drawn byte, or be refused. -/
theorem State.busRead_cases (a : Addr) (s : State) :
    (∃ v, s.busRead a = .next { s with rdata := some v }) ∨
    (∃ i, locate s.config a = .obuf i ∧ s.olen.toNat ≤ i ∧
      s.busRead a = .next { s with rdata := some ((Config.unspecifiedByte s.draws).setWidth 16),
                                   draws := s.draws + 1 }) ∨
    (∃ r : Refusal, s.busRead a = .refused r ∧ (r = .unmapped a ∨ r = .readOfWriteOnly a)) := by
  unfold State.busRead
  cases hl : locate s.config a with
  | obuf i =>
    simp only [State.readObuf, State.answer]
    by_cases h : i < s.olen.toNat
    · exact .inl ⟨_, by rw [if_pos h]⟩
    · exact .inr (.inl ⟨i, rfl, by omega, by rw [if_neg h]⟩)
  | unmapped => exact .inr (.inr ⟨_, rfl, .inl rfl⟩)
  | cmd => exact .inr (.inr ⟨_, rfl, .inr rfl⟩)
  | din => exact .inr (.inr ⟨_, rfl, .inr rfl⟩)
  | _ => exact .inl ⟨_, rfl⟩

end Sys2Proof.Machine
end

