-- ==== Sys2Proof/Laws/PerInstr.lean ====
section
/-! SUPPORT. A statement made per instruction: every instruction is encoded in its row's format, with the row's own
bits (spec/opcode_table.json). -/

namespace Sys2Proof.Laws

/-- The match value of an instruction's row and the width of its format. -/
def rowOf : Instr → Nat × Nat
  | .nop => (16, 0x0000)
  | .clr => (16, 0x0001)
  | .unpk => (16, 0x0002)
  | .pack => (16, 0x0003)
  | .rdec => (16, 0x0004)
  | .renc => (16, 0x0005)
  | .fdec => (16, 0x0006)
  | .fenc => (16, 0x0007)
  | .u8 => (3, 0x0)
  | .mode => (3, 0x1)
  | .led => (3, 0x2)
  | .assign => (3, 0x3)
  | .behav => (3, 0x4)
  | .rsvd => (3, 0x7)
  | .push _ => (12, 0x003)

/-- The width and the fixed bits of a code. -/
def codeBits : Code → Nat × Nat
  | .cmd w => (16, w.toNat)
  | .fdesc k => (3, k.toNat)
  | .buswr a _ => (12, a.toNat)

/-- The encoder writes the row's bits. -/
def EncodesRow.Statement (i : Instr) : Prop := codeBits (encode i) = rowOf i

theorem EncodesRow.nop : EncodesRow.Statement .nop := rfl
theorem EncodesRow.clr : EncodesRow.Statement .clr := rfl
theorem EncodesRow.unpk : EncodesRow.Statement .unpk := rfl
theorem EncodesRow.pack : EncodesRow.Statement .pack := rfl
theorem EncodesRow.rdec : EncodesRow.Statement .rdec := rfl
theorem EncodesRow.renc : EncodesRow.Statement .renc := rfl
theorem EncodesRow.fdec : EncodesRow.Statement .fdec := rfl
theorem EncodesRow.fenc : EncodesRow.Statement .fenc := rfl
theorem EncodesRow.u8 : EncodesRow.Statement .u8 := rfl
theorem EncodesRow.mode : EncodesRow.Statement .mode := rfl
theorem EncodesRow.led : EncodesRow.Statement .led := rfl
theorem EncodesRow.assign : EncodesRow.Statement .assign := rfl
theorem EncodesRow.behav : EncodesRow.Statement .behav := rfl
theorem EncodesRow.rsvd : EncodesRow.Statement .rsvd := rfl
theorem EncodesRow.push (b : Byte) : EncodesRow.Statement (.push b) := rfl

end Sys2Proof.Laws
end

