-- ==== Sys2Proof/Tests/Slice0.lean ====
section
/-! SUPPORT. Tests: the ill-formed configurations that WellFormed refuses, words written out from the encoding tables,
one-step tests with the results that spec/95_test_vectors.md gives, and a witness for the hypotheses of each statement.
The full-length vectors (V30, V40) are checked by the kernel's evaluator. -/

namespace Sys2Proof.Tests

open Sys2Proof Sys2Proof.Machine

-- One proof at a time: as many threads as there are theorems do not fit the memory limit of the check.
set_option Elab.async false

/-! ## Helpers -/

/-- The state that an outcome leaves; `s` for a stop. -/
def after (o : Host.Outcome State Fault Refusal) (s : State) : State :=
  match o with
  | .next t => t
  | .fault _ => s
  | .refused _ => s

/-- The state after an instruction. -/
def ran (i : Instr) (s : State) : State := after (exec i s) s

/-- The state after a step. -/
def stepped (s : State) : State := after (step s) s

/-- An outcome is a next state. -/
def answers : Host.Outcome State Fault Refusal → Bool
  | .next _ => true
  | .fault _ => false
  | .refused _ => false

/-- An outcome that is a next state is the one `after` names. -/
theorem eq_after (o : Host.Outcome State Fault Refusal) (s : State) (h : answers o = true) :
    o = .next (after o s) := by
  cases o with
  | next t => rfl
  | fault f => cases h
  | refused r => cases h

theorem exec_eq_ran (i : Instr) (s : State) (h : answers (exec i s) = true) : exec i s = .next (ran i s) :=
  eq_after _ _ h

theorem step_eq_stepped (s : State) (h : answers (step s) = true) : step s = .next (stepped s) := eq_after _ _ h

/-- The reset state of the reference block with an input loaded. -/
def loaded (bs : List Byte) : State := { State.reset with ibuf := Memory.store [] 0 bs, ilen := word bs.length }

/-- The reset state of the reference block with host events pending. -/
def pending (es : List HostEvent) : State := { State.reset with events := es }

/-- The error registers, in the order code, stage, offset, expected, actual. -/
def errRegs (s : State) : List Word := [s.errcode, s.errstage, s.erroff, s.errexp, s.erract]

/-- The reference block without the encode path. -/
def decoderOnly : Config := { Config.reference with hasEnc := false }

/-- The reference header (30_encoding.md R82, 95_test_vectors.md V40). -/
def header : Vector Byte 12 := #v[0xF0, 0x42, 0x40, 0x00, 0x01, 0x13, 0x00, 0x7F, 0x7F, 0x02, 0x03, 0x05]

/-- The record image of 95_test_vectors.md V30. -/
def imageV30 : List Byte :=
  [0x00, 0x03, 0x01, 0x00, 0x01, 0x00, 0x00, 0x00, 0xFF, 0x00, 0x01, 0x00, 0x10, 0x00, 0x7F, 0x00,
   0x01, 0x01, 0x20, 0x00, 0x7F, 0x00, 0x01, 0x01, 0x30, 0x00, 0x7F, 0x00, 0x01, 0x01, 0x40, 0x00,
   0x7F, 0x00, 0x00, 0x01, 0x00, 0x01, 0x00, 0x7F, 0x00, 0x01, 0x00, 0x11, 0x00, 0x7F, 0x00, 0x01,
   0x01, 0x21, 0x00, 0x7F, 0x00, 0x01, 0x01, 0x31, 0x00, 0x7F, 0x00, 0x01, 0x01, 0x41, 0x00, 0x7F] ++
  [0x00, 0x00, 0x01, 0x00, 0x02, 0x00, 0x7F, 0x00, 0x01, 0x00, 0x12, 0x00, 0x7F, 0x00, 0x01, 0x01,
   0x22, 0x00, 0x7F, 0x00, 0x01, 0x01, 0x32, 0x00, 0x7F, 0x00, 0x01, 0x01, 0x42, 0x00, 0x7F, 0x00,
   0x00, 0x01, 0x00, 0x03, 0x00, 0x7F, 0x00, 0x01, 0x00, 0x13, 0x00, 0x7F, 0x00, 0x01, 0x01, 0x23,
   0x00, 0x7F, 0x00, 0x01, 0x01, 0x33, 0x00, 0x7F, 0x00, 0x01, 0x01, 0x43, 0x00, 0x7F, 0x00, 0x00] ++
  [0x01, 0x00, 0x04, 0x00, 0x7F, 0x00, 0x01, 0x00, 0x14, 0x00, 0x7F, 0x00, 0x01, 0x01, 0x24, 0x00,
   0x7F, 0x00, 0x01, 0x01, 0x34, 0x00, 0x7F, 0x00, 0x01, 0x01, 0x44, 0x00, 0x7F, 0x00, 0x00, 0x01,
   0x00, 0x05, 0x00, 0x7F, 0x00, 0x01, 0x00, 0x15, 0x00, 0x7F, 0x00, 0x01, 0x01, 0x25, 0x00, 0x7F,
   0x00, 0x01, 0x01, 0x35, 0x00, 0x7F, 0x00, 0x01, 0x01, 0x45, 0x00, 0x7F, 0x00, 0x00, 0x01, 0x00] ++
  [0x06, 0x00, 0x7F, 0x00, 0x01, 0x00, 0x16, 0x00, 0x7F, 0x00, 0x01, 0x01, 0x26, 0x00, 0x7F, 0x00,
   0x01, 0x01, 0x36, 0x00, 0x7F, 0x00, 0x01, 0x01, 0x46, 0x00, 0x7F, 0x00, 0x00, 0x01, 0x00, 0x07,
   0x00, 0x7F, 0x00, 0x01, 0x00, 0x17, 0x00, 0x7F, 0x00, 0x01, 0x01, 0x27, 0x00, 0x7F, 0x00, 0x01,
   0x01, 0x37, 0x00, 0x7F, 0x00, 0x01, 0x01, 0x47, 0x00, 0xC8, 0x00, 0x10, 0x01, 0x00, 0x3A, 0x00] ++
  [0x7F, 0x00, 0x01, 0x00, 0x3B, 0x00, 0x7F, 0x00, 0x01, 0x00, 0x2E, 0x00, 0x7F, 0x00, 0x01, 0x00,
   0x3C, 0x00, 0x7F, 0x00, 0x01, 0x00, 0x3D, 0x00, 0x7F, 0x00, 0x01, 0x00, 0x3E, 0x00, 0x7F, 0x00,
   0x01, 0x00, 0x2B, 0x00, 0x7F, 0x00, 0x01, 0x00, 0x2C, 0x00, 0x7F, 0x00, 0x01, 0x00, 0x2A, 0x00,
   0x7F, 0x00, 0x01, 0x00, 0x29, 0x00, 0x7F, 0x00, 0x02, 0x00, 0x2D, 0x00, 0x7F, 0x00, 0x80, 0x81] ++
  [0x82, 0x83, 0x84, 0x00, 0x00, 0x00, 0x00, 0x00, 0x00, 0x00, 0x00, 0x00, 0x00, 0x00, 0x00, 0x00,
   0x00, 0x00, 0x00]

/-- The frame of 95_test_vectors.md V40. -/
def frameV40 : List Byte :=
  [0xF0, 0x42, 0x40, 0x00, 0x01, 0x13, 0x00, 0x7F, 0x7F, 0x02, 0x03, 0x05, 0x40, 0x00, 0x00, 0x03,
   0x01, 0x00, 0x01, 0x00, 0x00, 0x02, 0x00, 0x7F, 0x00, 0x01, 0x00, 0x10, 0x00, 0x00, 0x7F, 0x00,
   0x01, 0x01, 0x20, 0x00, 0x7F, 0x00, 0x00, 0x01, 0x01, 0x30, 0x00, 0x7F, 0x00, 0x00, 0x01, 0x01,
   0x40, 0x00, 0x7F, 0x00, 0x00, 0x00, 0x01, 0x00, 0x01, 0x00, 0x7F, 0x00, 0x01, 0x00, 0x00, 0x11] ++
  [0x00, 0x7F, 0x00, 0x01, 0x01, 0x00, 0x21, 0x00, 0x7F, 0x00, 0x01, 0x01, 0x31, 0x00, 0x00, 0x7F,
   0x00, 0x01, 0x01, 0x41, 0x00, 0x00, 0x7F, 0x00, 0x00, 0x01, 0x00, 0x02, 0x00, 0x00, 0x7F, 0x00,
   0x01, 0x00, 0x12, 0x00, 0x7F, 0x00, 0x00, 0x01, 0x01, 0x22, 0x00, 0x7F, 0x00, 0x00, 0x01, 0x01,
   0x32, 0x00, 0x7F, 0x00, 0x01, 0x00, 0x01, 0x42, 0x00, 0x7F, 0x00, 0x00, 0x01, 0x00, 0x00, 0x03] ++
  [0x00, 0x7F, 0x00, 0x01, 0x00, 0x00, 0x13, 0x00, 0x7F, 0x00, 0x01, 0x01, 0x23, 0x00, 0x00, 0x7F,
   0x00, 0x01, 0x01, 0x33, 0x00, 0x00, 0x7F, 0x00, 0x01, 0x01, 0x43, 0x00, 0x7F, 0x00, 0x00, 0x00,
   0x01, 0x00, 0x04, 0x00, 0x7F, 0x00, 0x00, 0x01, 0x00, 0x14, 0x00, 0x7F, 0x00, 0x00, 0x01, 0x01,
   0x24, 0x00, 0x7F, 0x00, 0x01, 0x00, 0x01, 0x34, 0x00, 0x7F, 0x00, 0x01, 0x01, 0x00, 0x44, 0x00] ++
  [0x7F, 0x00, 0x00, 0x01, 0x00, 0x00, 0x05, 0x00, 0x7F, 0x00, 0x01, 0x00, 0x15, 0x00, 0x00, 0x7F,
   0x00, 0x01, 0x01, 0x25, 0x00, 0x00, 0x7F, 0x00, 0x01, 0x01, 0x35, 0x00, 0x7F, 0x00, 0x00, 0x01,
   0x01, 0x45, 0x00, 0x7F, 0x00, 0x00, 0x00, 0x01, 0x00, 0x06, 0x00, 0x7F, 0x00, 0x00, 0x01, 0x00,
   0x16, 0x00, 0x7F, 0x00, 0x01, 0x00, 0x01, 0x26, 0x00, 0x7F, 0x00, 0x01, 0x01, 0x00, 0x36, 0x00] ++
  [0x7F, 0x00, 0x01, 0x01, 0x46, 0x00, 0x00, 0x7F, 0x00, 0x00, 0x01, 0x00, 0x07, 0x00, 0x00, 0x7F,
   0x00, 0x01, 0x00, 0x17, 0x00, 0x00, 0x7F, 0x00, 0x01, 0x01, 0x27, 0x00, 0x7F, 0x00, 0x00, 0x01,
   0x01, 0x37, 0x00, 0x7F, 0x00, 0x10, 0x01, 0x01, 0x47, 0x00, 0x48, 0x00, 0x10, 0x00, 0x01, 0x00,
   0x3A, 0x00, 0x7F, 0x00, 0x01, 0x00, 0x00, 0x3B, 0x00, 0x7F, 0x00, 0x01, 0x00, 0x00, 0x2E, 0x00] ++
  [0x7F, 0x00, 0x01, 0x00, 0x3C, 0x00, 0x00, 0x7F, 0x00, 0x01, 0x00, 0x3D, 0x00, 0x00, 0x7F, 0x00,
   0x01, 0x00, 0x3E, 0x00, 0x7F, 0x00, 0x00, 0x01, 0x00, 0x2B, 0x00, 0x7F, 0x00, 0x00, 0x01, 0x00,
   0x2C, 0x00, 0x7F, 0x00, 0x01, 0x00, 0x00, 0x2A, 0x00, 0x7F, 0x00, 0x01, 0x00, 0x00, 0x29, 0x00,
   0x7F, 0x00, 0x02, 0x00, 0x2D, 0x78, 0x00, 0x7F, 0x00, 0x00, 0x01, 0x02, 0x03, 0x01, 0x04, 0x00] ++
  [0x00, 0x00, 0x00, 0x00, 0x00, 0x00, 0x00, 0x00, 0x00, 0x00, 0x00, 0x00, 0x00, 0x00, 0x00, 0x00,
   0x00, 0xF7]

/-- A frame that holds `common.mode` = 1 and zeros: its second natural byte lies at frame offset 15 (30_encoding.md
R81). -/
def plainFrame : List Byte := header.toList ++ [0x40, 0, 0, 1] ++ List.replicate 385 0 ++ [0xF7]

/-- The image of that frame. -/
def plainImage : List Byte := [0, 1] ++ List.replicate 337 0

/-- The strict-enumerations bit set. -/
def strict (s : State) : State := { s with cfg := 1 }

/-- A walk of `RENC` over an image, standing at cell `np`. -/
def walking (image : List Byte) (np : Nat) : State :=
  { State.reset with work := some { Work.start .renc .walk State.reset.hdr image with np := np } }

/-! ## WellFormed refuses each kind of ill-formed configuration -/

theorem test_reference_valid : Config.reference.Valid := by decide +kernel

theorem test_decoderOnly_valid : decoderOnly.Valid := by decide +kernel

theorem test_refuses_ibufCap_below : ¬ Config.IbufCapOk { Config.reference with ibufCap := 402 } := by decide

theorem test_refuses_ibufCap_above : ¬ Config.IbufCapOk { Config.reference with ibufCap := 65535 } := by decide

theorem test_refuses_obufCap_below : ¬ Config.ObufCapOk { Config.reference with obufCap := 585 } := by decide

theorem test_refuses_obufCap_above : ¬ Config.ObufCapOk { Config.reference with obufCap := 2049 } := by decide

theorem test_refuses_value_outside_mask :
    ¬ Config.HdrConstOk { Config.reference with hdrConst := Config.refHdrConst.set 2 ⟨0xF0, 0x41⟩ } := by decide

theorem test_refuses_other_first_entry :
    ¬ Config.HdrConstOk { Config.reference with hdrConst := Config.refHdrConst.set 0 ⟨0xF0, 0xF0⟩ } := by decide

theorem test_refuses_equal_mode_codes :
    ¬ Config.EnumCodeOk { Config.reference with enumCode := { Config.refEnumCode with sonar := 0x01 } } := by decide

theorem test_refuses_equal_led_codes :
    ¬ Config.EnumCodeOk { Config.reference with enumCode := { Config.refEnumCode with external := 0x00 } } := by
  decide

theorem test_refuses_equal_assign_codes :
    ¬ Config.EnumCodeOk { Config.reference with enumCode := { Config.refEnumCode with note := 0x01 } } := by decide

theorem test_refuses_equal_behav_codes :
    ¬ Config.EnumCodeOk { Config.reference with enumCode := { Config.refEnumCode with toggle := 0x00 } } := by
  decide

theorem test_refuses_items_out_of_order :
    ¬ Config.GroupLayoutOk { Config.reference with
      groupLayout := (Config.refGroupLayout.set 1 (.slider .cc)).set 3 (.slider .type) } := by decide +kernel

theorem test_refuses_missing_reserved_slot :
    ¬ Config.GroupLayoutOk { Config.reference with groupLayout := Config.refGroupLayout.tail } := by decide +kernel

theorem test_refuses_reserved_inside_button :
    ¬ Config.GroupLayoutOk { Config.reference with
      groupLayout := (Config.refGroupLayout.set 12 (.button .solo .type)).set 13 (.rsvd 4) } := by decide +kernel

theorem test_encode_path_instructions :
    Instr.wellFormed decoderOnly .pack = false ∧ Instr.wellFormed decoderOnly .renc = false ∧
    Instr.wellFormed decoderOnly .fenc = false ∧ Instr.wellFormed decoderOnly .fdec = true := by decide

/-! ## Decoding: words written out bit by bit (30_encoding.md R88, R90, R91; 20_memory.md R61) -/

theorem test_decode_commands :
    decode (.cmd 0b0000000000000000) = .ok .nop ∧ decode (.cmd 0b0000000000000001) = .ok .clr ∧
    decode (.cmd 0b0000000000000010) = .ok .unpk ∧ decode (.cmd 0b0000000000000011) = .ok .pack ∧
    decode (.cmd 0b0000000000000100) = .ok .rdec ∧ decode (.cmd 0b0000000000000101) = .ok .renc ∧
    decode (.cmd 0b0000000000000110) = .ok .fdec ∧ decode (.cmd 0b0000000000000111) = .ok .fenc := by decide

theorem test_decode_descriptors :
    decode (.fdesc 0b000) = .ok .u8 ∧ decode (.fdesc 0b001) = .ok .mode ∧ decode (.fdesc 0b010) = .ok .led ∧
    decode (.fdesc 0b011) = .ok .assign ∧ decode (.fdesc 0b100) = .ok .behav ∧
    decode (.fdesc 0b111) = .ok .rsvd ∧ decode (.fdesc 0b101) = .error (.unusedKind 0b101) ∧
    decode (.fdesc 0b110) = .error (.unusedKind 0b110) := by decide

theorem test_decode_push :
    decode (.buswr 0b000000000011 0b0000000111110000) = .ok (.push 0xF0) ∧
    decode (.buswr 0b000000000011 0b1111111100000000) = .ok (.push 0x00) ∧
    decode (.buswr 0b000000000010 0b0000000000000000) = .error (.notPush 0x002) := by decide

/-- The words of V62. -/
theorem test_decode_illegal :
    ([0x0008, 0x000F, 0x0010, 0x0012, 0x8002, 0xFFFF] : List Word).all
      (fun w => decode (.cmd w) = .error (.illegalCommand w)) = true := by decide

/-- The rows as spec/opcode_table.json numbers them. -/
theorem test_table_words :
    [0, 1, 2, 3, 4, 5, 6, 7, 8].map (decodeTableWord 16) =
      [some .nop, some .clr, some .unpk, some .pack, some .rdec, some .renc, some .fdec, some .fenc, none] ∧
    [0, 1, 2, 3, 4, 5, 6, 7].map (decodeTableWord 8) =
      [some .u8, some .mode, some .led, some .assign, some .behav, none, none, some .rsvd] ∧
    decodeTableWord 12 0x003 = some (.push 0x00) ∧ decodeTableWord 32 0x01F00003 = some (.push 0xF0) := by decide

/-- A command word placed by `withFetchWord` is what the first step after reset runs. -/
theorem test_placed_command :
    step (State.reset.withFetchWord 16 0x0002) = exec .unpk State.reset ∧
    step (State.reset.withFetchWord 16 0x0001) = exec .clr State.reset ∧
    step (State.reset.withFetchWord 12 0x003) = exec (.push 0x00) State.reset := ⟨rfl, rfl, rfl⟩

/-- A descriptor placed by `withFetchWord` is run at the first cell of its kind: the cursor moves on by one (30_encoding.md
R89: offsets 0, 1, 2, 16, 17, 3). -/
theorem test_placed_descriptor :
    [0, 1, 2, 3, 4, 7].map (fun k => (stepped (State.reset.withFetchWord 8 k)).work.map (fun w => w.np)) =
      [some 1, some 2, some 3, some 17, some 18, some 4] := by decide +kernel

/-! ## One step: the results of 95_test_vectors.md -/

/-- V64: `NOP` after a failed command. -/
theorem test_nop : (ran .nop { loaded [1] with status := 2, errcode := 1 }).status = 2 ∧
    (ran .nop { loaded [1] with status := 2, errcode := 1 }).ilen = 1 := by decide

/-- V65: `CLR` keeps `CFG` and `HDR`. -/
theorem test_clr :
    (ran .clr (strict { loaded [1, 2] with hdr := header, status := 1, olen := 7 })).ilen = 0 ∧
    (ran .clr (strict { loaded [1, 2] with hdr := header, status := 1, olen := 7 })).olen = 0 ∧
    (ran .clr (strict { loaded [1, 2] with hdr := header, status := 1, olen := 7 })).status = 0 ∧
    (ran .clr (strict { loaded [1, 2] with hdr := header, status := 1, olen := 7 })).cfg = 1 ∧
    (ran .clr (strict { loaded [1, 2] with hdr := header, status := 1, olen := 7 })).hdr[1] = 0x42 := by decide

/-- S2: the source's second case, which fixes the bit order of the bitmap. -/
theorem test_unpk_bit_order :
    (ran .unpk (loaded [0x01, 0x01, 0x02, 0x03, 0x04, 0x05, 0x06, 0x07])).output =
      [0x81, 0x02, 0x03, 0x04, 0x05, 0x06, 0x07] ∧
    (ran .unpk (loaded [0x01, 0x01, 0x02, 0x03, 0x04, 0x05, 0x06, 0x07])).status = 0x0001 := by decide +kernel

/-- V11: two full chunks. -/
theorem test_unpk_two_chunks :
    (ran .unpk (loaded [0x40, 0x01, 0x02, 0x03, 0x04, 0x05, 0x06, 0x07,
      0x01, 0x08, 0x09, 0x0A, 0x0B, 0x0C, 0x0D, 0x0E])).output =
      [0x01, 0x02, 0x03, 0x04, 0x05, 0x06, 0x87, 0x88, 0x09, 0x0A, 0x0B, 0x0C, 0x0D, 0x0E] := by decide +kernel

/-- V25: a full and a partial chunk. -/
theorem test_pack_partial_chunk :
    (ran .pack (loaded [0x00, 0x7F, 0x80, 0xFF, 0x55, 0xAA, 0x01, 0xFE, 0x81])).output =
      [0x2C, 0x00, 0x7F, 0x00, 0x7F, 0x55, 0x2A, 0x01, 0x03, 0x7E, 0x01] := by decide +kernel

/-- V29: without the encode path. -/
theorem test_pack_absent :
    errRegs (ran .pack { loaded [1, 2, 3] with config := decoderOnly }) = [5, 0, 0, 0, 3] := by decide +kernel

/-- V30: status, a cell, and four tags. -/
theorem test_rdec_image :
    (ran .rdec (loaded imageV30)).status = 0x0001 ∧ readCell Config.reference (ran .rdec (loaded imageV30)).n 249 = 0xC8 ∧
    [1, 8, 312, 265, 3].map (ran .rdec (loaded imageV30)).tag = [0x0102, 0x00FF, 0x0302, 0x0400, 0x07FF] := by
  decide +kernel

/-- V35 with `ES` = 0, on an image of zeros: the reserved byte at 120 is reported, the warning at 1 is not. -/
theorem test_rdec_two_defects :
    errRegs (ran .rdec (loaded ((List.replicate 339 0).set 120 0x55))) = [3, 3, 120, 0, 0x55] ∧
    (ran .rdec (loaded ((List.replicate 339 0).set 120 0x55))).warnoff = 0 := by decide +kernel

/-- V37: `RENC` as reset, in both modes. -/
theorem test_renc_reset :
    (ran .renc State.reset).output = List.replicate 339 0 ∧ (ran .renc State.reset).status = 0x0005 ∧
    (ran .renc State.reset).warnoff = 1 ∧ errRegs (ran .renc (strict State.reset)) = [4, 3, 1, 1, 0] := by
  decide +kernel

/-- V36, on a plainer image: `RENC` gives the image back. -/
theorem test_renc_image :
    (ran .renc { State.reset with n := Memory.store [] 0 plainImage }).output = plainImage := by decide +kernel

/-- V40: `FDEC` of the example frame. -/
theorem test_fdec_frame :
    (ran .fdec (loaded frameV40)).status = 0x0001 ∧ (ran .fdec (loaded frameV40)).hdr = header ∧
    (ran .fdec (loaded frameV40)).output = imageV30 := by decide +kernel

/-- V46, on a plainer frame: the last four payload bytes are an ordinary partial chunk. -/
theorem test_fdec_final_chunk :
    errRegs (ran .fdec (loaded (plainFrame.set 397 0x01))) = [3, 3, 336, 0, 0x80] := by decide +kernel

/-- V41: `FENC` of the example record. -/
theorem test_fenc_frame :
    (ran .fenc { State.reset with n := Memory.store [] 0 imageV30, hdr := header }).output = frameV40 := by
  decide +kernel

/-- V48: `FENC` as reset. -/
theorem test_fenc_reset : errRegs (ran .fenc State.reset) = [2, 1, 0, 0xF0, 0] := by decide +kernel

/-- V61: the upper bits of a pushed word are ignored. -/
theorem test_push :
    ((stepped (pending [.wr 0x003 0x01F0])).ibuf.read 0, (stepped (pending [.wr 0x003 0x01F0])).ilen) =
      (0xF0, 1) := by decide

/-- V14: the counter saturates; a byte past the buffer is dropped (V12). -/
theorem test_push_saturates :
    (ran (.push 0xAA) { State.reset with ilen := 65535 }).ilen = 65535 ∧
    (ran (.push 0xAA) { State.reset with ilen := 512 }).ilen = 513 ∧
    (ran (.push 0xAA) { State.reset with ilen := 512 }).ibuf = [] := by decide

/-- R135: every byte of a `U8` cell is accepted. -/
theorem test_u8 : ((ran .u8 (walking [0xFF] 0)).work.map (fun w => w.np), (ran .u8 (walking [0xFF] 0)).status) =
    (some 1, 0) := by decide

/-- R136: 0x03 is `LIVE`, 0x00 is unrecognised, passed or raised. -/
theorem test_mode :
    (ran .mode (walking [0, 3] 1)).work.map (fun w => w.warn) = some none ∧
    (ran .mode (walking [0, 0] 1)).work.map (fun w => w.warn) = some (some 1) ∧
    errRegs (ran .mode (strict (walking [0, 0] 1))) = [4, 3, 1, 1, 0] := by decide

/-- R137: 0x01 is `EXTERNAL`, 0x02 is unrecognised. -/
theorem test_led :
    (ran .led (walking [0, 0, 1] 2)).work.map (fun w => w.warn) = some none ∧
    errRegs (ran .led (strict (walking [0, 0, 2] 2))) = [4, 3, 2, 2, 2] := by decide

/-- R138: 0x02 is `NOTE`, 0x03 is unrecognised. -/
theorem test_assign :
    (ran .assign (walking [2] 0)).work.map (fun w => w.warn) = some none ∧
    errRegs (ran .assign (strict (walking [3] 0))) = [4, 3, 0, 3, 3] := by decide

/-- R139: 0x01 is `TOGGLE`, 0x7F is unrecognised. -/
theorem test_behav :
    (ran .behav (walking [1] 0)).work.map (fun w => w.warn) = some none ∧
    errRegs (ran .behav (strict (walking [0x7F] 0))) = [4, 3, 0, 4, 0x7F] := by decide

/-- R141: a reserved byte must be 0, in either mode. -/
theorem test_rsvd :
    (ran .rsvd (walking [0] 0)).work.map (fun w => w.np) = some 1 ∧
    errRegs (ran .rsvd (walking [0x01] 0)) = [3, 3, 0, 0, 1] ∧
    errRegs (ran .rsvd (strict (walking [0x01] 0))) = [3, 3, 0, 0, 1] := by decide

/-- V62: an illegal command word. -/
theorem test_illegal_command :
    errRegs (stepped { loaded [1, 2] with events := [.wr 0x000 0x8002] }) = [5, 0, 0, 0, 0x8002] := by decide

/-- V66: `TAG` follows `N` at once. -/
theorem test_tag :
    (stepped (pending [.wr 0x201 0x04])).tag 1 = 0x0103 ∧ (stepped (pending [.wr 0x201 0x06])).tag 1 = 0x01FF ∧
    (stepped (pending [.wr 0x210 0x02])).tag 16 = 0x0302 ∧ State.reset.tag 3 = 0x07FF := by decide +kernel

/-- V61: only bit 0 of `CFG` is stored; the upper bits of a header byte are ignored. -/
theorem test_register_writes :
    (stepped (pending [.wr 0x002 0xFFFF])).cfg = 1 ∧ (stepped (pending [.wr 0x002 0xFFFE])).cfg = 0 ∧
    (stepped (pending [.wr 0x010 0x12F0])).hdr[0] = 0xF0 := by decide

/-- V38: a hardwired cell ignores a write. -/
theorem test_hardwired_write : (stepped (pending [.wr 0x203 0x55])).n = [] ∧
    (stepped (pending [.wr 0x352 0xFF])).n = [] := by decide +kernel

/-- V67: refused accesses. -/
theorem test_refused :
    ([0x000, 0x003, 0x00C, 0x00F, 0x01C, 0x1FF, 0x353, 0x3FF, 0x553, 0x7FF, 0xC00, 0xFFF] : List Addr).all
      (fun a => stepped (pending [.rd a]) = pending [.rd a]) = true ∧
    ([0x001, 0x004, 0x400, 0x800, 0x00C, 0x00F, 0x01C, 0x1FF, 0x353, 0x3FF, 0x553, 0x7FF, 0xC00, 0xFFF] : List Addr).all
      (fun a => stepped (pending [.wr a 0]) = pending [.wr a 0]) = true := by decide +kernel

/-- Names of 30_encoding.md R89: offsets 102, 120, 265. -/
theorem test_names :
    [102, 120, 265, 308].map (fun i => CellName.path (cellName Config.reference i)) =
      ["group[3].rsvd2", "group[3].mute.rsvd", "transport.cycle.behavior", "transport.play.cc"] := by
  decide +kernel

/-- P1 of section 3: `LOAD` and `CMD` of the script syntax. -/
theorem test_script :
    scriptLoad [0x01, 0x02] = [.wr 0x000 0x0001, .wr 0x003 0x0001, .wr 0x003 0x0002] ∧
    scriptDrain 2 = [.rd 0x800, .rd 0x801] ∧
    scriptSet Config.reference (.transport .play .cc) 0x90 = .wr 0x334 0x0090 := by decide +kernel

/-! ## Witnesses: concrete states and operands that meet the hypotheses of each statement, clause by clause -/

/-- 339 zero bytes loaded. -/
def zeros : State := loaded (List.replicate 339 0)

/-- The plain frame loaded. -/
def framed : State := loaded plainFrame

/-- A header and `common.mode` = 1 held: what `FENC` needs. -/
def held : State := { State.reset with n := [(1, 1)], hdr := header }

theorem witness_EncodeInvertsDecode :
    decode (.cmd 7) = .ok .fenc ∧ decode (.fdesc 7) = .ok .rsvd ∧
    decode (.buswr 0x003 0xFFF0) = .ok (.push 0xF0) := by decide

theorem witness_StepRunsDecoded :
    ((pending [.wr 0x000 7]).work = none ∧ (pending [.wr 0x000 7]).events = [.wr 0x000 7] ∧
      decode (.cmd 7) = .ok .fenc) ∧
    ((pending [.wr 0x003 0xFFF0]).work = none ∧ (pending [.wr 0x003 0xFFF0]).events = [.wr 0x003 0xFFF0] ∧
      decode (.buswr 0x003 0xFFF0) = .ok (.push 0xF0)) ∧
    ((walking plainImage 338).work =
        some { Work.start .renc .walk State.reset.hdr plainImage with np := 338 } ∧
      decode (.fdesc (kindCode (kindAt (walking plainImage 338).config 338))) = .ok .rsvd) :=
  ⟨⟨rfl, rfl, rfl⟩, ⟨rfl, rfl, rfl⟩, rfl, by decide +kernel⟩

theorem witness_ResetEventClears :
    (pending [.reset]).work = none ∧ (pending [.reset]).events = [.reset] := ⟨rfl, rfl⟩

theorem witness_IlenChangesOnlyByResetClrPush :
    (step { loaded [1] with events := [.reset] } = .next (stepped { loaded [1] with events := [.reset] }) ∧
      (stepped { loaded [1] with events := [.reset] }).ilen ≠ (loaded [1]).ilen) ∧
    (step { loaded [1] with events := [.wr 0x000 1] } = .next (stepped { loaded [1] with events := [.wr 0x000 1] }) ∧
      (stepped { loaded [1] with events := [.wr 0x000 1] }).ilen ≠ (loaded [1]).ilen) ∧
    (step (pending [.wr 0x003 5]) = .next (stepped (pending [.wr 0x003 5])) ∧
      (stepped (pending [.wr 0x003 5])).ilen ≠ (pending [.wr 0x003 5]).ilen) :=
  ⟨⟨step_eq_stepped _ (by decide), by decide⟩, ⟨step_eq_stepped _ (by decide), by decide⟩, step_eq_stepped _ (by decide), by decide⟩

theorem witness_UnpkCompletes :
    ∀ l ∈ [0, 1, 512], ({ State.reset with ilen := word l } : State).ilen.toNat ≤ Config.reference.ibufCap := by
  decide

theorem witness_UnpackClosedForm :
    0 < (unpack [0x01, 0x01]).length ∧ 6 < (unpack (List.replicate 8 0x01)).length ∧
    7 < (unpack (List.replicate 10 0x01)).length := by decide

theorem witness_PackIsSevenBitClean : (0x7F : Byte) ∈ pack [0xFF] := by decide

/-- The last partial chunk with one and with six data bytes. -/
theorem witness_PackImageIsValidlyPacked :
    [0x01, 0x7F].length % 8 = 1 + 1 ∧ (List.replicate 7 (0x3F : Byte)).length % 8 = 1 + 6 ∧
    pack [0xFF] = [0x01, 0x7F] := by decide

theorem witness_PackClosedForm :
    (6 < 7 ∧ 7 * 0 + 6 < (List.replicate 7 (0x80 : Byte)).length) ∧
    (0 < 7 ∧ 7 * 1 + 0 < (List.replicate 8 (0x80 : Byte)).length) := by decide

theorem witness_PackCompletes :
    ({ State.reset with ilen := 512 } : State).config.hasEnc = true ∧ Config.reference.IbufCapOk ∧
    Config.reference.ObufCapOk ∧ ({ State.reset with ilen := 512 } : State).ilen.toNat ≤ Config.reference.ibufCap := by
  decide

theorem witness_OverrunRaisesShapeError :
    Config.reference.ibufCap < ({ State.reset with ilen := 513 } : State).ilen.toNat ∧
    Config.reference.ibufCap < ({ State.reset with ilen := 65535 } : State).ilen.toNat ∧
    State.reset.config.hasEnc = true := by decide

theorem witness_EnumDecodeFindsVariant :
    Config.reference.EnumCodeOk ∧ enumDecode Config.reference .mode 0x03 = .known .live ∧
    enumDecode Config.reference .mode 0x00 = .unrecognized 0x00 := by decide

theorem witness_EnumRoundTrip :
    Config.reference.EnumCodeOk ∧ enumOk Config.reference .mode (.known .live) ∧
    enumOk Config.reference .mode (.unrecognized 0x00) :=
  ⟨by decide, by show Variant.live ∈ Kind.mode.variants; decide,
    by show ∀ v ∈ Kind.mode.variants, Config.reference.enumCode.code v ≠ 0x00; decide⟩

/-- What `enum_decode` answers is well-formed. -/
theorem enumOk_enumDecode (c : Config) (e : Kind) (b : Byte) : enumOk c e (enumDecode c e b) := by
  unfold enumDecode
  cases h : e.variants.find? (fun v => c.enumCode.code v == b) with
  | some v => exact List.mem_of_find?_eq_some h
  | none =>
    intro v hv
    have := List.find?_eq_none.mp h v hv
    simpa using this

/-- The view's enumerated values are what `enum_decode` answers. -/
theorem enumOk_namedEnum (c : Config) (m : Memory) (name : CellName) :
    enumOk c (nameKind name) (namedEnum c m name) := enumOk_enumDecode _ _ _

/-- A record with `common.mode` = `LIVE` and `group[0].slider.max` = 0xFF. -/
def someCells : Memory := [(1, 3), (8, 0xFF)]

/-- Under the reference configuration the view of any cells is a well-formed record. -/
theorem recordOk_reference (m : Memory) : recordOk Config.reference (view Config.reference m) := by
  have h := enumOk_namedEnum Config.reference m
  refine ⟨h .commonMode, h .commonLed, fun g => ?_, fun b _ => ?_⟩
  · have e : (view Config.reference m).group[g] = viewGroup Config.reference m g.val := by simp [view]
    rw [e]
    exact ⟨⟨h (.group g (.button .solo .type)), h (.group g (.button .solo .behavior))⟩,
      ⟨h (.group g (.button .mute .type)), h (.group g (.button .mute .behavior))⟩,
      ⟨h (.group g (.button .record .type)), h (.group g (.button .record .behavior))⟩⟩
  · have e : (view Config.reference m).transport.button b = viewButton Config.reference m (.transport b) := by
      cases b <;> rfl
    rw [e]
    exact ⟨h (.transport b .type), h (.transport b .behavior)⟩

theorem witness_RecordViewRoundTrip :
    Config.reference.Valid ∧ recordOk Config.reference (view Config.reference someCells) ∧
    ∀ i < natLen, readCell Config.reference someCells i =
      (recordImage Config.reference (view Config.reference someCells)).getD i 0 :=
  ⟨by decide +kernel, recordOk_reference someCells, by decide +kernel⟩

theorem witness_SchemaKindCounts : Config.reference.GroupLayoutOk := by decide +kernel

theorem witness_HardwiredCells :
    kindAt Config.reference 3 = .rsvd ∧ kindAt Config.reference 338 = .rsvd := by decide +kernel

theorem witness_TagShowsKindAndOrdinal :
    (isEnum (kindAt held.config 1) = true ∧
      enumDecode held.config (kindAt held.config 1) (readCell held.config held.n 1) = .known .cubase) ∧
    isEnum (kindAt held.config 338) = false ∧
    enumDecode State.reset.config (kindAt State.reset.config 1) (readCell State.reset.config State.reset.n 1) =
      .unrecognized (readCell State.reset.config State.reset.n 1) ∧
    ((pending [.rd 0x552]).work = none ∧ (pending [.rd 0x552]).events = [.rd (BitVec.ofNat 12 (0x400 + 338))]) ∧
    (pending [.wr 0x552 1]).events = [.wr (BitVec.ofNat 12 (0x400 + 338)) 1] := by decide +kernel

theorem witness_WalkFirstFailureWins :
    plainImage.length = natLen ∧ recWalk Config.reference true plainImage = .ok none ∧
    recWalk Config.reference false (List.replicate 339 0) = .ok (some 1) ∧
    recWalk Config.reference true (plainImage.set 338 1) = .error ⟨.reservedByte, .natural, 338, 0, 1⟩ := by
  decide +kernel

theorem witness_DescriptorsAdvance :
    ((walking [0] 0).work = some (Work.start .renc .walk State.reset.hdr [0]) ∧
      (Work.start .renc .walk State.reset.hdr [0]).image[0]? = some 0) ∧
    (Variant.assign ∈ Kind.assign.variants ∧ (walking [0] 0).config.enumCode.code .assign = 0) ∧
    ((∀ v ∈ Kind.mode.variants, (walking [0] 0).config.enumCode.code v ≠ 0) ∧ (walking [0] 0).es = false) := by
  decide

theorem witness_DescriptorsRaise :
    ((walking [0x7F] 0).work = some (Work.start .renc .walk State.reset.hdr [0x7F]) ∧
      (Work.start .renc .walk State.reset.hdr [0x7F]).image[0]? = some 0x7F ∧ (0x7F : Byte) ≠ 0) ∧
    (∀ e ∈ [Kind.mode, .led, .assign, .behav], ∀ v ∈ e.variants,
      (walking [0x7F] 0).config.enumCode.code v ≠ 0x7F) ∧
    (strict (walking [0x7F] 0)).es = true := by decide

theorem witness_DescriptorNeedsCell :
    State.reset.work = none ∧ (walking [] 0).work = some (Work.start .renc .walk State.reset.hdr []) ∧
    (Work.start .renc .walk State.reset.hdr []).image[0]? = none := by decide

theorem witness_RdecCompletes :
    zeros.ilen.toNat = natLen ∧ ∀ i < natLen, ¬ Rejected zeros.config zeros.es i (zeros.ibuf.read i) := by
  decide +kernel

theorem witness_RdecRaises :
    (loaded (List.replicate 338 0)).ilen.toNat ≠ natLen ∧
    ((loaded (plainImage.set 338 1)).ilen.toNat = natLen ∧
      (∀ j < 338, ¬ Rejected Config.reference false j ((loaded (plainImage.set 338 1)).ibuf.read j)) ∧
      ReservedNonzero Config.reference 338 ((loaded (plainImage.set 338 1)).ibuf.read 338)) ∧
    ((strict zeros).ilen.toNat = natLen ∧ (strict zeros).es = true ∧
      (∀ j < 1, ¬ Rejected Config.reference true j (zeros.ibuf.read j)) ∧
      Unrecognised Config.reference 1 (zeros.ibuf.read 1)) := by decide +kernel

theorem witness_RencCompletes :
    (State.reset.config.hasEnc = true ∧ State.reset.es = false) ∧
    ((strict held).config.hasEnc = true ∧ (strict held).es = true ∧
      ∀ i < natLen, ¬ Unrecognised held.config i (readCell held.config held.n i)) := by decide +kernel

theorem witness_RencRaises :
    (strict { held with n := [(1, 1), (313, 0x7F)] }).config.hasEnc = true ∧
    (strict { held with n := [(1, 1), (313, 0x7F)] }).es = true ∧
    (∀ j < 313, ¬ Unrecognised Config.reference j (readCell Config.reference [(1, 1), (313, 0x7F)] j)) ∧
    Unrecognised Config.reference 313 (readCell Config.reference [(1, 1), (313, 0x7F)] 313) := by decide +kernel

theorem witness_RdecThenRencReproduces :
    zeros.config.hasEnc = true ∧ exec .rdec zeros = .next (ran .rdec zeros) ∧ (ran .rdec zeros).status ≠ 2 ∧
    exec .renc (ran .rdec zeros) = .next (ran .renc (ran .rdec zeros)) :=
  ⟨rfl, exec_eq_ran _ _ (by decide +kernel), by decide +kernel, exec_eq_ran _ _ (by decide +kernel)⟩

theorem witness_FramePayloadUnpacks :
    plainFrame.length = frameLen ∧ exec .fdec framed = .next (ran .fdec framed) ∧
    isDataCommand .fdec = true ∧ (loaded (List.replicate 340 0)).ilen.toNat ≠ natLen :=
  ⟨by decide +kernel, exec_eq_ran _ _ (by decide +kernel), rfl, by decide +kernel⟩

theorem witness_FdecCompletes :
    (strict framed).ilen.toNat = frameLen ∧
    (∀ i : Fin 12, HeaderMatches (strict framed).config (strict framed).ibuf.read i) ∧
    (strict framed).ibuf.read 12 = 0x40 ∧ (strict framed).ibuf.read 401 = 0xF7 ∧
    ∀ i < natLen, ¬ Rejected (strict framed).config (strict framed).es i (frameNatural (strict framed).ibuf.read i) := by
  decide +kernel

theorem witness_FdecRaises_shape :
    (loaded plainFrame.tail).ilen.toNat ≠ frameLen ∧ (loaded (plainFrame ++ [0])).ilen.toNat ≠ frameLen := by
  decide +kernel

theorem witness_FdecRaises_header :
    ((loaded (plainFrame.set 0 0)).ilen.toNat = frameLen ∧
      ¬ HeaderMatches Config.reference (loaded (plainFrame.set 0 0)).ibuf.read 0) ∧
    ((loaded (plainFrame.set 11 0)).ilen.toNat = frameLen ∧
      (∀ j < (11 : Fin 12), HeaderMatches Config.reference (loaded (plainFrame.set 11 0)).ibuf.read j) ∧
      ¬ HeaderMatches Config.reference (loaded (plainFrame.set 11 0)).ibuf.read 11) := by decide +kernel

theorem witness_FdecRaises_constants :
    ((∀ i : Fin 12, HeaderMatches Config.reference (loaded (plainFrame.set 12 0)).ibuf.read i) ∧
      (loaded (plainFrame.set 12 0)).ilen.toNat = frameLen ∧ (loaded (plainFrame.set 12 0)).ibuf.read 12 ≠ 0x40) ∧
    ((∀ i : Fin 12, HeaderMatches Config.reference (loaded (plainFrame.set 401 0)).ibuf.read i) ∧
      (loaded (plainFrame.set 401 0)).ilen.toNat = frameLen ∧ (loaded (plainFrame.set 401 0)).ibuf.read 12 = 0x40 ∧
      (loaded (plainFrame.set 401 0)).ibuf.read 401 ≠ 0xF7) := by decide +kernel

/-- Natural offsets 338 and 1 lie at frame offsets 400 and 15 (30_encoding.md R81). -/
theorem witness_FdecRaises_record :
    ((loaded (plainFrame.set 400 1)).ilen.toNat = frameLen ∧
      (∀ i : Fin 12, HeaderMatches Config.reference (loaded (plainFrame.set 400 1)).ibuf.read i) ∧
      (loaded (plainFrame.set 400 1)).ibuf.read 12 = 0x40 ∧ (loaded (plainFrame.set 400 1)).ibuf.read 401 = 0xF7 ∧
      (∀ j < 338, ¬ Rejected Config.reference false j (frameNatural (loaded (plainFrame.set 400 1)).ibuf.read j)) ∧
      ReservedNonzero Config.reference 338 (frameNatural (loaded (plainFrame.set 400 1)).ibuf.read 338)) ∧
    ((strict (loaded (plainFrame.set 15 0))).ilen.toNat = frameLen ∧
      (∀ i : Fin 12, HeaderMatches Config.reference (loaded (plainFrame.set 15 0)).ibuf.read i) ∧
      (loaded (plainFrame.set 15 0)).ibuf.read 12 = 0x40 ∧ (loaded (plainFrame.set 15 0)).ibuf.read 401 = 0xF7 ∧
      (strict (loaded (plainFrame.set 15 0))).es = true ∧
      (∀ j < 1, ¬ Rejected Config.reference true j (frameNatural (loaded (plainFrame.set 15 0)).ibuf.read j)) ∧
      Unrecognised Config.reference 1 (frameNatural (loaded (plainFrame.set 15 0)).ibuf.read 1)) := by
  decide +kernel

theorem witness_FencCompletes :
    (strict held).config.hasEnc = true ∧
    (∀ i : Fin 12, HeaderMatches (strict held).config (strict held).hdrByte i) ∧ (strict held).es = true ∧
    (∀ i < natLen, ¬ Unrecognised held.config i (readCell held.config held.n i)) := by decide +kernel

theorem witness_FencRaises :
    State.reset.config.hasEnc = true ∧ ¬ HeaderMatches Config.reference State.reset.hdrByte 0 ∧
    ((∀ j < (11 : Fin 12),
        HeaderMatches Config.reference (State.hdrByte { held with hdr := header.set 11 0 }) j) ∧
      ¬ HeaderMatches Config.reference (State.hdrByte { held with hdr := header.set 11 0 }) 11) ∧
    ((∀ i : Fin 12, HeaderMatches Config.reference (State.hdrByte (strict { held with n := [] })) i) ∧
      (strict { held with n := [] }).es = true ∧
      (∀ j < 1, ¬ Unrecognised Config.reference j (readCell Config.reference [] j)) ∧
      Unrecognised Config.reference 1 (readCell Config.reference [] 1)) := by decide +kernel

theorem witness_FencThenFdec :
    held.config.hasEnc = true ∧ exec .fenc held = .next (ran .fenc held) ∧ (ran .fenc held).status ≠ 2 ∧
    ({ ran .fenc held with ilen := 402, ibuf := (ran .fenc held).obuf } : State).config = held.config ∧
    ({ ran .fenc held with ilen := 402, ibuf := (ran .fenc held).obuf } : State).cfg = held.cfg :=
  ⟨rfl, exec_eq_ran _ _ (by decide +kernel), by decide +kernel, by decide +kernel, by decide +kernel⟩

theorem ran_fdec_config (s : State) : (ran .fdec s).config = s.config := (State.dataCommand_frame bodyFdec s).1

theorem answers_fenc (s : State) (h : s.config.hasEnc = true) : answers (exec .fenc s) = true := by
  simp [exec, execFenc, h, answers]

theorem witness_FdecThenFenc :
    framed.config.hasEnc = true ∧ exec .fdec framed = .next (ran .fdec framed) ∧ (ran .fdec framed).status ≠ 2 ∧
    exec .fenc (ran .fdec framed) = .next (ran .fenc (ran .fdec framed)) ∧
    ValidlyPacked (payload framed.input) :=
  ⟨rfl, exec_eq_ran _ _ (by decide +kernel), by decide +kernel,
    exec_eq_ran _ _ (answers_fenc _ (by rw [ran_fdec_config]; rfl)),
    ⟨fun b hb => of_decide_eq_true (List.all_eq_true.mp
      (show (payload framed.input).all (fun b => b.toNat ≤ 127) = true by decide +kernel) b hb),
      by decide +kernel, by decide +kernel⟩⟩

theorem witness_IllegalCommandEntry :
    ((pending [.wr 0x000 8]).work = none ∧ (pending [.wr 0x000 8]).events = [.wr 0x000 8] ∧ 8 ≤ (8 : Word).toNat) ∧
    8 ≤ (0xFFFF : Word).toNat ∧
    ({ pending [.wr 0x000 7] with config := decoderOnly } : State).config.hasEnc = false := by decide

theorem witness_EncodePathAbsent : ({ State.reset with config := decoderOnly } : State).config.hasEnc = false := rfl

/-- For `DataCommandsSucceedOrFail` and `DataCommandsRepeat`. -/
theorem witness_DataCommands :
    (∀ i ∈ [Instr.unpk, .pack, .rdec, .renc, .fdec, .fenc],
      isDataCommand i = true ∧ exec i zeros = .next (ran i zeros)) := by
  intro i hi
  fin_cases hi <;> exact ⟨rfl, exec_eq_ran _ _ (by decide +kernel)⟩

theorem witness_DataCommandsStateless :
    zeros.config = ({ zeros with obuf := [(0, 5)], status := 2 } : State).config ∧
    zeros.cfg = ({ zeros with obuf := [(0, 5)], status := 2 } : State).cfg ∧
    (zeros.ilen = ({ zeros with obuf := [(0, 5)], status := 2 } : State).ilen ∧
      ∀ a < zeros.ilen.toNat,
        zeros.ibuf.read a = ({ zeros with obuf := [(0, 5)], status := 2 } : State).ibuf.read a) ∧
    (held.hdr = ({ held with ilen := 5, errcode := 1 } : State).hdr ∧
      ∀ a < natLen, readCell held.config held.n a =
        readCell held.config ({ held with ilen := 5, errcode := 1 } : State).n a) ∧
    exec .rdec zeros = .next (ran .rdec zeros) ∧ (ran .rdec zeros).status ≠ 2 :=
  ⟨rfl, rfl, ⟨rfl, fun _ _ => rfl⟩, ⟨rfl, fun _ _ => rfl⟩, exec_eq_ran _ _ (by decide +kernel), by decide +kernel⟩

theorem witness_RecordChangesOnlyBy :
    ((pending [.wr 0x201 4]).work = none ∧
      step (pending [.wr 0x201 4]) = .next (stepped (pending [.wr 0x201 4])) ∧
      readCell Config.reference (stepped (pending [.wr 0x201 4])).n 1 ≠
        readCell Config.reference (pending [.wr 0x201 4]).n 1) ∧
    (step (pending [.wr 0x01B 5]) = .next (stepped (pending [.wr 0x01B 5])) ∧
      (stepped (pending [.wr 0x01B 5])).hdr[(11 : Fin 12)] ≠ (pending [.wr 0x01B 5]).hdr[(11 : Fin 12)]) :=
  ⟨⟨rfl, step_eq_stepped _ (by decide +kernel), by decide +kernel⟩, step_eq_stepped _ (by decide +kernel), by decide +kernel⟩

theorem witness_RegisterMapOneToOne :
    Config.reference.obufCap ≤ 2048 ∧ locMapped Config.reference (.obuf 1023) = true ∧
    locMapped Config.reference (.tag 338) = true ∧ locate Config.reference 0x352 ≠ .unmapped := by decide +kernel

theorem witness_RegisterReads :
    (pending [.rd 0x00B]).work = none ∧ (pending [.rd 0x00B]).events = [.rd 0x00B] := ⟨rfl, rfl⟩

/-- The boundaries of the three ranges: below `OLEN`, from `OLEN` to the buffer's end, past it. -/
theorem witness_OutputReads :
    (pending [.rd 0x806]).work = none ∧
    ({ pending [.rd 0x806] with olen := 7 } : State).olen.toNat ≤ Config.reference.obufCap ∧
    ∀ i ∈ [6, 7, 1023, 1024, 2047], 0x800 + i < 4096 := by decide

theorem witness_ReadsHaveNoSideEffect :
    (pending [.rd 0x800]).work = none ∧ step (pending [.rd 0x800]) = .next (stepped (pending [.rd 0x800])) ∧
    (stepped (pending [.rd 0x800])).draws ≠ (pending [.rd 0x800]).draws :=
  ⟨rfl, step_eq_stepped _ (by decide +kernel), by decide +kernel⟩

theorem witness_RegisterWrites :
    (pending [.wr 0x002 1]).work = none ∧
    (pending [.wr 0x01B 1]).events = [.wr (BitVec.ofNat 12 (0x010 + (11 : Fin 12).val)) 1] ∧
    (pending [.wr 0x342 1]).events = [.wr (BitVec.ofNat 12 (0x200 + 322)) 1] ∧
    kindAt Config.reference 322 ≠ .rsvd ∧ kindAt Config.reference 338 = .rsvd := by decide +kernel

theorem witness_UndefinedAccessesRefused :
    (pending [.rd 0xC00]).work = none ∧ Config.reference.obufCap ≤ 2048 ∧
    (pending [.rd 0xC00]).events = [.rd 0xC00] ∧ (pending [.wr 0x353 1]).events = [.wr 0x353 1] := by decide

theorem witness_ResetMeetsInvariant : decoderOnly.Valid := by decide +kernel

/-- The reset state meets the invariant with an event pending, and with the hidden registers of a running command. -/
theorem inv_reset_with (es : List HostEvent) (work : Option Work)
    (h : State.WorkOk { State.reset with events := es, work := work }) :
    State.Inv { State.reset with events := es, work := work } where
  config := by show Config.reference.Valid; decide +kernel
  n := by show State.NOk State.reset; decide
  ibuf := by show State.IbufOk State.reset; decide
  obuf := by show State.ObufOk State.reset; decide
  cfg := by show State.reset.cfg.toNat ≤ 1; decide
  status := by show State.StatusOk State.reset; decide
  err := by show State.ErrOk State.reset; decide
  warn := by show State.WarnOk State.reset; decide
  olen := by show State.OlenOk State.reset; decide
  work := h

/-- A state that meets the invariant, with an event pending. -/
theorem inv_pending (e : HostEvent) : (pending [e]).Inv := inv_reset_with [e] none nofun

/-- The reset state with a command under way. -/
def running (w : Work) : State := { State.reset with work := some w }

theorem inv_running (w : Work) (h : (running w).CursorsOk w ∧ (running w).PassOk w) : (running w).Inv :=
  inv_reset_with [] (some w) (by intro v hv; cases hv; exact ⟨rfl, h⟩)

/-- A state inside a walk that meets the invariant. -/
theorem inv_walking : (walking plainImage 338).Inv :=
  inv_running _ ⟨⟨by decide, by decide, rfl, by decide, nofun⟩, rfl, rfl, by decide +kernel⟩

theorem witness_StepKeepsInvariant :
    ((pending [.wr 0x000 4]).Inv ∧ step (pending [.wr 0x000 4]) = .next (stepped (pending [.wr 0x000 4]))) ∧
    ((walking plainImage 338).Inv ∧ step (walking plainImage 338) = .next (stepped (walking plainImage 338))) :=
  ⟨⟨inv_pending _, step_eq_stepped _ (by decide +kernel)⟩, inv_walking, step_eq_stepped _ (by decide +kernel)⟩

/-- A refused read and a refused write, a register read, a command word, and a command under way. -/
theorem witness_OnlyBusAccessesAreRefused :
    ((pending [.rd 0xC00]).Inv ∧ step (pending [.rd 0xC00]) = .refused (.unmapped 0xC00)) ∧
    ((pending [.wr 0x353 1]).Inv ∧ step (pending [.wr 0x353 1]) = .refused (.unmapped 0x353)) ∧
    ((pending [.rd 0xBFF]).Inv ∧ answers (step (pending [.rd 0xBFF])) = true) ∧
    ((pending [.wr 0x000 8]).Inv ∧ (pending [.wr 0x000 8]).events = [.wr 0x000 8]) ∧
    ((walking plainImage 338).Inv ∧ (walking plainImage 338).work ≠ none) :=
  ⟨⟨inv_pending _, rfl⟩, ⟨inv_pending _, rfl⟩, ⟨inv_pending _, rfl⟩, ⟨inv_pending _, rfl⟩, inv_walking, nofun⟩

/-- An image of zeros. -/
def zeroImage : List Byte := List.replicate 339 0

/-- `OP` at its first place, all cells walked. -/
def emitting : Work := { Work.start .renc .emit State.reset.hdr zeroImage with np := 339 }

/-- `OP` at its first place, the header 0, which does not match. -/
def heading : Work := Work.start .fenc .head State.reset.hdr zeroImage

/-- The input of no bytes at its end. -/
def taking : Work := Work.start .unpk .take State.reset.hdr []

/-- A command begun and one refused its start; then one step each of a walk at its last cell, of a byte produced, of a
raise and of a commit. -/
theorem witness_CursorsAdvanceByOne :
    ((State.begin .pack (loaded [1])).work = some (Work.start .pack .take State.reset.hdr []) ∧
      (State.begin .rdec (loaded [1])).work = none) ∧
    ((walking plainImage 338).Inv ∧ step (walking plainImage 338) = .next (stepped (walking plainImage 338)) ∧
      (stepped (walking plainImage 338)).work.map (fun w => w.np) = some 339) ∧
    ((running emitting).Inv ∧ step (running emitting) = .next (stepped (running emitting)) ∧
      (stepped (running emitting)).work.map (fun w => w.line.op) = some 1) ∧
    ((running heading).Inv ∧ step (running heading) = .next (stepped (running heading)) ∧
      (stepped (running heading)).work = none ∧ (stepped (running heading)).status = 2) ∧
    ((running taking).Inv ∧ step (running taking) = .next (stepped (running taking)) ∧
      (stepped (running taking)).work = none ∧ (stepped (running taking)).status ≠ 2) :=
  ⟨⟨rfl, rfl⟩, ⟨inv_walking, step_eq_stepped _ (by decide +kernel), by decide +kernel⟩,
    ⟨inv_running _ ⟨⟨by decide, by decide, rfl, by decide, nofun⟩, rfl, rfl, by decide +kernel, by decide⟩,
      step_eq_stepped _ (by decide +kernel), by decide +kernel⟩,
    ⟨inv_running _ ⟨⟨by decide, by decide, rfl, by decide, nofun⟩, rfl, rfl, by decide, by decide, by decide +kernel⟩,
      step_eq_stepped _ (by decide +kernel), by decide +kernel⟩,
    ⟨inv_running _ ⟨⟨by decide, by decide, rfl, by decide, nofun⟩, by decide, rfl, by decide, by decide⟩,
      step_eq_stepped _ (by decide +kernel), by decide +kernel⟩⟩

theorem witness_UnfoldedCommandsAgree :
    (passInstr .fenc).wellFormed Config.reference = true ∧ (passInstr .fdec).wellFormed decoderOnly = true ∧
    (passInstr .pack).wellFormed Config.reference = true := by decide

end Sys2Proof.Tests
end

section
/-! PROOFS. The frame of the data commands, one equation for the six of them, and that what a command leaves is a function
of its inputs (00_scope.md R17). -/

namespace Sys2Proof.Machine

/-! ## Equal bytes, equal sequences -/

/-- The input is `ILEN` and the cells of `IBUF` below it. -/
theorem State.input_congr (s₁ s₂ : State) (hlen : s₁.ilen = s₂.ilen)
    (hread : ∀ a < s₁.ilen.toNat, s₁.ibuf.read a = s₂.ibuf.read a) : s₁.input = s₂.input := by
  unfold State.input Memory.bytes
  rw [← hlen]
  refine List.map_congr_left fun a ha => hread a ?_
  simpa using ha

/-- The image is what the 339 cells of the record read. -/
theorem State.image_congr (s₁ s₂ : State)
    (hread : ∀ a < natLen, readCell s₁.config s₁.n a = readCell s₂.config s₂.n a) : s₁.image = s₂.image :=
  List.map_congr_left fun a ha => hread a (List.mem_range.mp ha)

/-- `ES` is a bit of `CFG`. -/
theorem State.es_congr (s₁ s₂ : State) (h : s₁.cfg = s₂.cfg) : s₁.es = s₂.es := by
  rw [State.es, State.es, h]

/-- A block of cells is read as one part and then the next. -/
theorem Memory.bytes_add (m : Memory) (a x y : Nat) : m.bytes a (x + y) = m.bytes a x ++ m.bytes (a + x) y := by
  rw [Memory.bytes, ← List.range'_append_1, List.map_append]
  rfl

/-- The first bytes read back after a store at 0 are the first bytes stored. -/
theorem Memory.bytes_store_take (m : Memory) (bs : List Byte) (len : Nat) (h : len ≤ bs.length) :
    (m.store 0 bs).bytes 0 len = bs.take len := by
  obtain ⟨rest, hrest⟩ := Nat.exists_eq_add_of_le h
  calc (m.store 0 bs).bytes 0 len
      = ((m.store 0 bs).bytes 0 (len + rest)).take len := by
        rw [Memory.bytes_add, List.take_left' (Memory.bytes_length _ _ _)]
    _ = bs.take len := by rw [← hrest, Memory.bytes_store]

/-- The output after a commit of any length: as many of the committed bytes as `OLEN` counts. -/
theorem State.commit_output_take (w : Commit) (s : State) :
    (s.commit w).output = w.out.take (word w.out.length).toNat :=
  Memory.bytes_store_take _ _ _ (by simpa using Nat.mod_le _ _)

/-! ## One body for each of the six data commands -/

/-- What an encode command answers in a block with or without the encode path (44_control.md R190). -/
def encodeBody (w : Word) (body : State → Except Err Commit) (s : State) : Except Err Commit :=
  if s.config.hasEnc then body s else .error ⟨.illegalCommand, .none, 0, 0, w⟩

/-- The body of a data command, with the error that an encode command takes in a block without the encode path. -/
def passBody : PassCmd → State → Except Err Commit
  | .unpk => bodyUnpk
  | .pack => encodeBody 0x0003 bodyPack
  | .rdec => bodyRdec
  | .renc => encodeBody 0x0005 bodyRenc
  | .fdec => bodyFdec
  | .fenc => encodeBody 0x0007 bodyFenc

/-- The frame around `encodeBody` is the frame around the body, or the error of an illegal command. -/
theorem State.dataCommand_encodeBody (w : Word) (body : State → Except Err Commit) (s : State) :
    s.dataCommand (encodeBody w body) = if s.config.hasEnc then s.dataCommand body else s.illegalCommand w := by
  by_cases h : s.config.hasEnc = true <;>
    simp [State.dataCommand, encodeBody, h, State.illegalCommand, State.epilogue]

/-- Every data command is the frame of 44_control.md R186 around its body. -/
theorem exec_passInstr (cmd : PassCmd) (s : State) :
    exec (passInstr cmd) s = .next (s.dataCommand (passBody cmd)) := by
  cases cmd with
  | unpk | rdec | fdec => rfl
  | pack | renc | fenc =>
    simp only [passBody, State.dataCommand_encodeBody, apply_ite Host.Outcome.next]
    rfl

/-- The instructions that `isDataCommand` names are those of the six commands. -/
theorem eq_passInstr_of_isDataCommand (i : Instr) (h : isDataCommand i = true) : ∃ cmd, i = passInstr cmd := by
  cases i with
  | unpk => exact ⟨.unpk, rfl⟩
  | pack => exact ⟨.pack, rfl⟩
  | rdec => exact ⟨.rdec, rfl⟩
  | renc => exact ⟨.renc, rfl⟩
  | fdec => exact ⟨.fdec, rfl⟩
  | fenc => exact ⟨.fenc, rfl⟩
  | nop | clr | u8 | mode | led | assign | behav | rsvd | push => simp [isDataCommand] at h

/-- The four commands that read the input, as instructions. -/
theorem passInstr_readsInput (cmd : PassCmd) (h : readsInput cmd = true) :
    passInstr cmd = .unpk ∨ passInstr cmd = .pack ∨ passInstr cmd = .rdec ∨ passInstr cmd = .fdec := by
  cases cmd <;> simp [passInstr, readsInput] at h ⊢

/-- The two commands that read the record and the header, as instructions. -/
theorem passInstr_not_readsInput (cmd : PassCmd) (h : readsInput cmd = false) :
    passInstr cmd = .renc ∨ passInstr cmd = .fenc := by
  cases cmd <;> simp [passInstr, readsInput] at h ⊢

@[simp] theorem passInstr_eq_rdec (cmd : PassCmd) : passInstr cmd = .rdec ↔ cmd = .rdec := by
  cases cmd <;> simp [passInstr]

@[simp] theorem passInstr_eq_fdec (cmd : PassCmd) : passInstr cmd = .fdec ↔ cmd = .fdec := by
  cases cmd <;> simp [passInstr]

/-! ## A body is a function of the command's inputs -/

/-- Two states agree on what the command `cmd` reads (00_scope.md R17). -/
structure State.SameInputs (cmd : PassCmd) (s₁ s₂ : State) : Prop where
  config : s₁.config = s₂.config
  cfg    : s₁.cfg = s₂.cfg
  /-- The commands that read `IBUF[0:ILEN]`. -/
  input  : readsInput cmd = true → s₁.ilen = s₂.ilen ∧ s₁.input = s₂.input
  /-- The commands that read the header and the record. -/
  record : readsInput cmd = false → s₁.hdr = s₂.hdr ∧ s₁.image = s₂.image

/-- The prologue clears none of the inputs. -/
theorem State.SameInputs.prologue {cmd : PassCmd} {s₁ s₂ : State} (h : s₁.SameInputs cmd s₂) :
    s₁.prologue.SameInputs cmd s₂.prologue :=
  ⟨h.config, h.cfg, h.input, h.record⟩

theorem capacityCheck_congr (s₁ s₂ : State) (hc : s₁.config = s₂.config) (hlen : s₁.ilen = s₂.ilen) :
    capacityCheck s₁ = capacityCheck s₂ := by
  rw [capacityCheck, capacityCheck, hc, hlen]

/-- The body of a command answers the same in two states that agree on what the command reads. -/
theorem passBody_congr (cmd : PassCmd) (s₁ s₂ : State) (h : s₁.SameInputs cmd s₂) :
    passBody cmd s₁ = passBody cmd s₂ := by
  have hes := State.es_congr s₁ s₂ h.cfg
  cases cmd with
  | unpk =>
    obtain ⟨hlen, hin⟩ := h.input rfl
    simp only [passBody, bodyUnpk, capacityCheck_congr s₁ s₂ h.config hlen, hin]
  | pack =>
    obtain ⟨hlen, hin⟩ := h.input rfl
    simp only [passBody, encodeBody, bodyPack, capacityCheck_congr s₁ s₂ h.config hlen, hin, h.config]
  | rdec =>
    obtain ⟨hlen, hin⟩ := h.input rfl
    simp only [passBody, bodyRdec, h.config, hes, hlen, hin]
  | fdec =>
    obtain ⟨hlen, hin⟩ := h.input rfl
    simp only [passBody, bodyFdec, h.config, hes, hlen, hin]
  | renc =>
    obtain ⟨-, himg⟩ := h.record rfl
    simp only [passBody, encodeBody, bodyRenc, h.config, hes, himg]
  | fenc =>
    obtain ⟨hhdr, himg⟩ := h.record rfl
    simp only [passBody, encodeBody, bodyFenc, h.config, hes, hhdr, himg]

/-! ## What RDEC and FDEC commit -/

/-- `FDEC`'s body: what a commit of it means. -/
theorem bodyFdec_eq_ok (s : State) (w : Commit) :
    bodyFdec s = .ok w ↔
      frameCheck s.config s.input s.ilen = none ∧ (payload s.input).length = packedLen ∧
      (unpack (payload s.input)).length = natLen ∧
      ∃ warn, recWalk s.config s.es (unpack (payload s.input)) = .ok warn ∧
        w = { hdr := some (headerOf s.input), image := some (unpack (payload s.input)),
              out := unpack (payload s.input), warn := warn } := by
  unfold bodyFdec
  cases frameCheck s.config s.input s.ilen with
  | some e => simp
  | none =>
    by_cases hp : (payload s.input).length = packedLen
    · by_cases hn : (unpack (payload s.input)).length = natLen
      · cases recWalk s.config s.es (unpack (payload s.input)) <;> simp [hp, hn, eq_comm]
      · simp [hp, hn]
    · simp [hp]

/-- `RDEC` and `FDEC` commit an image of all 339 cells. -/
theorem passBody_image (cmd : PassCmd) (s : State) (w : Commit) (hcmd : cmd = .rdec ∨ cmd = .fdec)
    (h : passBody cmd s = .ok w) : ∃ bs, w.image = some bs ∧ bs.length = natLen := by
  rcases hcmd with rfl | rfl
  · obtain ⟨hlen, warn, -, rfl⟩ := (bodyRdec_eq_ok s w).mp h
    exact ⟨s.input, rfl, by rw [State.input_length, hlen]⟩
  · obtain ⟨-, -, hlen, warn, -, rfl⟩ := (bodyFdec_eq_ok s w).mp h
    exact ⟨_, rfl, hlen⟩

/-- `FDEC` commits a header. -/
theorem passBody_hdr (s : State) (w : Commit) (h : passBody .fdec s = .ok w) : ∃ v, w.hdr = some v := by
  obtain ⟨-, -, -, warn, -, rfl⟩ := (bodyFdec_eq_ok s w).mp h
  exact ⟨_, rfl⟩

/-! ## Equal answers, equal results -/

/-- Two states agree on what a host reads of a command's outcome: the result registers and the output. -/
structure State.SameResults (t₁ t₂ : State) : Prop where
  status   : t₁.status = t₂.status
  warnoff  : t₁.warnoff = t₂.warnoff
  errcode  : t₁.errcode = t₂.errcode
  errstage : t₁.errstage = t₂.errstage
  erroff   : t₁.erroff = t₂.erroff
  errexp   : t₁.errexp = t₂.errexp
  erract   : t₁.erract = t₂.erract
  output   : t₁.output = t₂.output

/-- Whatever the states before, the same error gives the same results. -/
theorem State.errorEntry_sameResults (e : Err) (s₁ s₂ : State) :
    (s₁.errorEntry e).SameResults (s₂.errorEntry e) := by
  constructor <;> rfl

/-- Whatever the states before, the same commit after the prologue gives the same results. -/
theorem State.commit_sameResults (w : Commit) (s₁ s₂ : State) :
    (s₁.prologue.commit w).SameResults (s₂.prologue.commit w) := by
  constructor
  case output => rw [State.commit_output_take, State.commit_output_take]
  all_goals rfl

/-- The two outcomes of one body that answers the same in two states. -/
theorem State.dataCommand_pair_cases (body : State → Except Err Commit) (s₁ s₂ : State)
    (h : body s₁.prologue = body s₂.prologue) :
    (∃ w, body s₁.prologue = .ok w ∧
      s₁.dataCommand body = s₁.prologue.commit w ∧ s₂.dataCommand body = s₂.prologue.commit w) ∨
    (∃ e, s₁.dataCommand body = s₁.prologue.errorEntry e ∧ s₂.dataCommand body = s₂.prologue.errorEntry e) := by
  rcases State.dataCommand_cases body s₁ with ⟨w, hw, h₁⟩ | ⟨e, he, h₁⟩
  · exact .inl ⟨w, hw, h₁, State.dataCommand_of_ok body s₂ w (h ▸ hw)⟩
  · exact .inr ⟨e, h₁, State.dataCommand_of_error body s₂ e (h ▸ he)⟩

/-- The record after the commit of a whole image does not depend on the record before. -/
theorem readCell_commit_congr (w : Commit) (s₁ s₂ : State) (bs : List Byte) (hc : s₁.config = s₂.config)
    (himg : w.image = some bs) (a : Nat) (ha : a < bs.length) :
    readCell (s₁.commit w).config (s₁.commit w).n a = readCell (s₂.commit w).config (s₂.commit w).n a := by
  rw [State.commit_n_of_some w s₁ bs himg, State.commit_n_of_some w s₂ bs himg, State.commit_config,
    State.commit_config, readCell_writeCells _ _ _ _ ha, readCell_writeCells _ _ _ _ ha, hc]

/-- A data command that has the same inputs in two states leaves the same results. -/
theorem dataCommand_sameResults (cmd : PassCmd) (s₁ s₂ : State) (h : s₁.SameInputs cmd s₂) :
    (s₁.dataCommand (passBody cmd)).SameResults (s₂.dataCommand (passBody cmd)) := by
  rcases State.dataCommand_pair_cases _ s₁ s₂ (passBody_congr cmd _ _ h.prologue) with
    ⟨w, -, h₁, h₂⟩ | ⟨e, h₁, h₂⟩
  · rw [h₁, h₂]; exact State.commit_sameResults w s₁ s₂
  · rw [h₁, h₂]; exact State.errorEntry_sameResults e _ _

/-- `RDEC` and `FDEC`, when they succeed on the same inputs in two states, leave the same record. -/
theorem dataCommand_sameRecord (cmd : PassCmd) (s₁ s₂ : State) (h : s₁.SameInputs cmd s₂)
    (hcmd : cmd = .rdec ∨ cmd = .fdec) (hok : (s₁.dataCommand (passBody cmd)).status ≠ 2) :
    ∀ a < natLen,
      readCell (s₁.dataCommand (passBody cmd)).config (s₁.dataCommand (passBody cmd)).n a =
        readCell (s₂.dataCommand (passBody cmd)).config (s₂.dataCommand (passBody cmd)).n a := by
  intro a ha
  rcases State.dataCommand_pair_cases _ s₁ s₂ (passBody_congr cmd _ _ h.prologue) with
    ⟨w, hw, h₁, h₂⟩ | ⟨e, h₁, -⟩
  · obtain ⟨bs, himg, hlen⟩ := passBody_image cmd _ w hcmd hw
    rw [h₁, h₂]
    exact readCell_commit_congr w _ _ bs h.config himg a (hlen ▸ ha)
  · rw [h₁] at hok
    exact absurd rfl hok

/-- `FDEC`, when it succeeds on the same inputs in two states, leaves the same header. -/
theorem dataCommand_sameHdr (s₁ s₂ : State) (h : s₁.SameInputs .fdec s₂)
    (hok : (s₁.dataCommand (passBody .fdec)).status ≠ 2) :
    (s₁.dataCommand (passBody .fdec)).hdr = (s₂.dataCommand (passBody .fdec)).hdr := by
  rcases State.dataCommand_pair_cases _ s₁ s₂ (passBody_congr .fdec _ _ h.prologue) with
    ⟨w, hw, h₁, h₂⟩ | ⟨e, h₁, -⟩
  · obtain ⟨v, hv⟩ := passBody_hdr _ w hw
    rw [h₁, h₂, State.commit_hdr, State.commit_hdr, hv]
    rfl
  · rw [h₁] at hok
    exact absurd rfl hok

/-- Settles O47: the command's body answers the same in both states, and a commit or an error entry leaves results that
depend on that answer only. -/
theorem dataCommandsStateless : Obligations.DataCommandsStateless := by
  intro i s₁ s₂ t₁ t₂ hi hconfig hcfg hinput hrecord h₁ h₂
  obtain ⟨cmd, rfl⟩ := eq_passInstr_of_isDataCommand i hi
  have hsame : s₁.SameInputs cmd s₂ := {
    config := hconfig
    cfg := hcfg
    input := fun h => by
      obtain ⟨hlen, hread⟩ := hinput (passInstr_readsInput cmd h)
      exact ⟨hlen, State.input_congr s₁ s₂ hlen hread⟩
    record := fun h => by
      obtain ⟨hhdr, hread⟩ := hrecord (passInstr_not_readsInput cmd h)
      exact ⟨hhdr, State.image_congr s₁ s₂ hread⟩ }
  rw [exec_passInstr] at h₁ h₂
  cases h₁
  cases h₂
  have hres := dataCommand_sameResults cmd s₁ s₂ hsame
  refine ⟨hres.status, hres.warnoff, hres.errcode, hres.errstage, hres.erroff, hres.errexp, hres.erract, hres.output,
    fun hok hcmd => ?_, fun hok hcmd => ?_⟩
  · exact dataCommand_sameRecord cmd s₁ s₂ hsame (by simpa using hcmd) hok
  · obtain rfl := (passInstr_eq_fdec cmd).mp hcmd
    exact dataCommand_sameHdr s₁ s₂ hsame hok

end Sys2Proof.Machine
end

section
/-! PROOFS. What the Reset event leaves (10_state.md R45), and the view `TAG` (10_state.md R26). -/

namespace Sys2Proof.Machine

/-! ## The Reset event -/

/-- Every cell of an empty record file reads 0, hardwired or not. -/
@[simp] theorem readCell_nil (c : Config) (i : Nat) : readCell c [] i = 0 := ite_self _

/-- A pending Reset event: the reset state of the block, with the event taken. -/
theorem step_reset (s : State) (rest : List HostEvent) (hw : s.work = none) (he : s.events = .reset :: rest) :
    step s = .next (s.take rest).onReset := by
  rw [step_event s _ rest hw he, fetchEvent_reset]

/-- Settles O6: the step answers the reset state, whose fields are read off one by one. -/
theorem resetEventClears : Obligations.ResetEventClears := by
  intro s rest hw he
  refine ⟨(s.take rest).onReset, step_reset s rest hw he, fun i _ => ?cells, fun i => ?header, ?registers⟩
  case cells => rw [State.onReset_n, readCell_nil]
  case header => simp
  case registers => exact ⟨rfl, rfl, rfl, rfl, rfl, rfl, rfl, rfl, rfl, rfl, rfl, rfl, rfl⟩

/-! ## Enumerations and ordinals -/

/-- A variant belongs to one enumeration only (30_encoding.md R87). -/
theorem Variant.kind_of_mem_variants (e : Kind) (v : Variant) (h : v ∈ e.variants) : v.kind = e := by
  cases e <;> simp only [Kind.variants, List.mem_cons, List.not_mem_nil, or_false] at h
  case mode => rcases h with rfl | rfl | rfl | rfl | rfl <;> rfl
  case led => rcases h with rfl | rfl <;> rfl
  case assign => rcases h with rfl | rfl | rfl <;> rfl
  case behav => rcases h with rfl | rfl <;> rfl

theorem Kind.variants_length_le (e : Kind) : e.variants.length ≤ 5 := by cases e <;> decide

/-- An enumeration lists each of its variants at the variant's ordinal. -/
theorem Kind.variants_getElem?_variantOrdinal (e : Kind) (v : Variant) (h : v ∈ e.variants) :
    e.variants[variantOrdinal v]? = some v := by
  rw [variantOrdinal, Variant.kind_of_mem_variants e v h]
  exact List.getElem?_idxOf h

/-- The ordinal of a variant fits a byte. -/
theorem variantOrdinal_lt (e : Kind) (v : Variant) (h : v ∈ e.variants) : variantOrdinal v < 2 ^ 8 := by
  rw [variantOrdinal, Variant.kind_of_mem_variants e v h]
  have hlt := List.idxOf_lt_length_of_mem h
  have hle := Kind.variants_length_le e
  omega

/-- The lookup answers only variants of the enumeration it is made in. -/
theorem mem_variants_of_enumDecode_known (c : Config) (e : Kind) (b : Byte) (v : Variant)
    (h : enumDecode c e b = .known v) : v ∈ e.variants := by
  unfold enumDecode at h
  split at h
  next u hu =>
    cases h
    exact List.mem_of_find?_eq_some hu
  next => cases h

/-- The kinds `U8` and `RSVD` have no variant to recognise. -/
theorem enumDecode_of_not_isEnum (c : Config) (e : Kind) (b : Byte) (h : isEnum e = false) :
    enumDecode c e b = .unrecognized b := by
  cases e with
  | u8 | rsvd => rfl
  | mode | led | assign | behav => simp [isEnum] at h

/-! ## The two bytes of `TAG` -/

/-- The high byte of `TAG` is the kind code. -/
theorem State.tag_high (s : State) (i : Nat) :
    (s.tag i).extractLsb' 8 8 = (kindCode (kindAt s.config i)).setWidth 8 :=
  BitVec.extractLsb'_append_eq_left

/-- The low byte of `TAG` is the answer of the dispatch. -/
theorem State.tag_low (s : State) (i : Nat) :
    (s.tag i).extractLsb' 0 8 = tagLow s.config (kindAt s.config i) (readCell s.config s.n i) :=
  BitVec.extractLsb'_append_eq_right

theorem toNat_tagLow_of_known (c : Config) (e : Kind) (b : Byte) (v : Variant) (h : enumDecode c e b = .known v) :
    (tagLow c e b).toNat = variantOrdinal v := by
  rw [tagLow, h]
  rw [BitVec.toNat_ofNat]
  exact Nat.mod_eq_of_lt (variantOrdinal_lt e v (mem_variants_of_enumDecode_known c e b v h))

theorem tagLow_of_unrecognized (c : Config) (e : Kind) (b r : Byte) (h : enumDecode c e b = .unrecognized r) :
    tagLow c e b = 0xFF := by
  rw [tagLow, h]

/-! ## The host's accesses to `TAG` -/

/-- A read of a tag's address is answered with the tag of the present state. -/
theorem State.busRead_tag (s : State) (a : Addr) (i : Nat) (h : locate s.config a = .tag i) :
    s.busRead a = .next { s with rdata := some (s.tag i) } := by
  rw [State.busRead, h]
  rfl

/-- `TAG` is read-only (20_memory.md R66). -/
theorem State.busWrite_tag (s : State) (a : Addr) (d : Word) (i : Nat) (h : locate s.config a = .tag i) :
    s.busWrite a d = .refused (.writeOfReadOnly a) := by
  rw [State.busWrite, h]

/-- Neither of the two write-only ports lies in `TAG`. -/
theorem ne_port_of_locate_tag (c : Config) (a : Addr) (i : Nat) (h : locate c a = .tag i) :
    a ≠ 0x000 ∧ a ≠ 0x003 := by
  constructor
  · rintro rfl
    cases h
  · rintro rfl
    cases h

/-- A pending read of a tag. -/
theorem State.readsAs_tag (s : State) (i : Nat) (hw : s.work = none) (hi : i < natLen) :
    s.ReadsAs (BitVec.ofNat 12 (0x400 + i)) (s.tag i) := by
  intro rest he
  rw [step_event s _ rest hw he, fetchEvent_rd, State.busRead_tag (s.take rest) _ i (locate_tag _ i hi)]
  rfl

/-- A pending write of a tag. -/
theorem step_write_tag (s : State) (i : Nat) (d : Word) (rest : List HostEvent) (hw : s.work = none)
    (hi : i < natLen) (he : s.events = .wr (BitVec.ofNat 12 (0x400 + i)) d :: rest) :
    step s = .refused (.writeOfReadOnly (BitVec.ofNat 12 (0x400 + i))) := by
  have hloc := locate_tag (s.take rest).config i hi
  obtain ⟨hcmd, hdin⟩ := ne_port_of_locate_tag _ _ i hloc
  rw [step_event s _ rest hw he, fetchEvent_write _ d _ hcmd hdin, State.busWrite_tag _ _ d i hloc]

/-- Settles O27: `TAG` is the kind code over the answer of the lookup; a recognised variant stands in its enumeration's
list at its ordinal, and a kind without variants recognises nothing. -/
theorem tagShowsKindAndOrdinal : Obligations.TagShowsKindAndOrdinal := by
  intro s i
  refine ⟨?kind, fun _ v hv => ?ordinal, fun h => ?noVariant, fun hw hi => ⟨?read, fun d rest he => ?write⟩⟩
  case kind =>
    rw [State.tag_high]
    cases kindAt s.config i <;> rfl
  case ordinal =>
    rw [State.tag_low, toNat_tagLow_of_known _ _ _ v hv]
    exact Kind.variants_getElem?_variantOrdinal _ v (mem_variants_of_enumDecode_known _ _ _ v hv)
  case noVariant =>
    rw [State.tag_low]
    rcases h with hkind | hbyte
    · exact tagLow_of_unrecognized _ _ _ _ (enumDecode_of_not_isEnum _ _ _ hkind)
    · exact tagLow_of_unrecognized _ _ _ _ hbyte
  case read => exact s.readsAs_tag i hw hi
  case write => exact ⟨_, step_write_tag s i d rest hw hi he⟩

end Sys2Proof.Machine
end

section
/-! PROOFS. The accesses that the map defines, and the refusal of the others (20_memory.md R61, R66). -/

namespace Sys2Proof.Machine

/-! ## What a host may do at a location -/

/-- A host read of the location has a meaning (20_memory.md R61): all but the two write-only ports. -/
def Loc.readable : Loc → Bool
  | .cmd | .din | .unmapped => false
  | .status | .cfg | .ilen | .olen | .errcode | .errstage | .erroff | .errexp | .erract | .warnoff => true
  | .hdr _ | .n _ | .tag _ | .obuf _ => true

/-- A host write of the location has a meaning (20_memory.md R61): the two ports, `CFG`, `HDR` and `N`. -/
def Loc.writable : Loc → Bool
  | .cmd | .din | .cfg | .hdr _ | .n _ => true
  | .status | .ilen | .olen | .errcode | .errstage | .erroff | .errexp | .erract | .warnoff => false
  | .tag _ | .obuf _ | .unmapped => false

/-- The location of an address is readable, or writable, exactly when the address lies in the map's ranges:
location by location, the address is compared with the bounds of those ranges. -/
theorem locate_access (c : Config) (a : Addr) :
    ((locate c a).readable = true ↔ ReadableAddr c a.toNat) ∧
    ((locate c a).writable = true ↔ WritableAddr a.toNat) := by
  rcases locate_cases c a with ⟨h, ha⟩ | ⟨h, ha⟩ | ⟨h, ha⟩ | ⟨h, ha⟩ | ⟨h, ha⟩ | ⟨h, ha⟩ | ⟨h, ha⟩ | ⟨h, ha⟩ |
    ⟨h, ha⟩ | ⟨h, ha⟩ | ⟨h, ha⟩ | ⟨h, ha⟩ | ⟨i, h, ha⟩ | ⟨i, h, hi, ha⟩ | ⟨i, h, hi, ha⟩ | ⟨i, h, hi, ha⟩ | ⟨h, hout⟩
  all_goals
    rw [h]
    simp only [Loc.readable, Loc.writable, ReadableAddr, WritableAddr, true_iff, Bool.false_eq_true, false_iff]
    bv_omega

/-- `CMD` has the one address 0x000. -/
theorem eq_of_locate_cmd (c : Config) (a : Addr) (h : locate c a = .cmd) : a = 0x000 := by
  simpa [h] using locate_cases c a

/-- `DIN` has the one address 0x003. -/
theorem eq_of_locate_din (c : Config) (a : Addr) (h : locate c a = .din) : a = 0x003 := by
  simpa [h] using locate_cases c a

/-! ## The two bus transitions -/

/-- A read is refused at the locations that have no reading, and only there. -/
theorem State.busRead_refused_iff (a : Addr) (s : State) :
    (∃ r, s.busRead a = .refused r) ↔ ¬ (locate s.config a).readable = true := by
  unfold State.busRead
  cases locate s.config a with
  | cmd | din | unmapped => simp [Loc.readable]
  | obuf i =>
    by_cases hi : i < s.olen.toNat
    · simp [Loc.readable, State.readObuf_lt i s hi]
    · simp [Loc.readable, State.readObuf_ge i s (Nat.le_of_not_lt hi)]
  | status | cfg | ilen | olen | errcode | errstage | erroff | errexp | erract | warnoff | hdr | n | tag =>
    simp [Loc.readable, State.answer]

/-- A write outside the two ports is refused at the locations that have no writing, and only there. -/
theorem State.busWrite_refused_iff (a : Addr) (d : Word) (s : State) (h0 : a ≠ 0x000) (h3 : a ≠ 0x003) :
    (∃ r, s.busWrite a d = .refused r) ↔ ¬ (locate s.config a).writable = true := by
  unfold State.busWrite
  cases hl : locate s.config a with
  | cmd => exact absurd (eq_of_locate_cmd _ a hl) h0
  | din => exact absurd (eq_of_locate_din _ a hl) h3
  | cfg | hdr | n => simp [Loc.writable]
  | status | ilen | olen | errcode | errstage | erroff | errexp | erract | warnoff => simp [Loc.writable]
  | tag | obuf | unmapped => simp [Loc.writable]

/-! ## The two ports -/

/-- The instructions that a command word stands for (30_encoding.md R90). -/
theorem decode_cmd_cases (w : Word) (i : Instr) (h : decode (.cmd w) = .ok i) :
    i = .nop ∨ i = .clr ∨ ∃ cmd, i = passInstr cmd := by
  change decodeCmd w = .ok i at h
  unfold decodeCmd at h
  split at h
  · cases h
  · split at h <;> cases h
    · exact .inl rfl
    · exact .inr (.inl rfl)
    · exact .inr (.inr ⟨.unpk, rfl⟩)
    · exact .inr (.inr ⟨.pack, rfl⟩)
    · exact .inr (.inr ⟨.rdec, rfl⟩)
    · exact .inr (.inr ⟨.renc, rfl⟩)
    · exact .inr (.inr ⟨.fdec, rfl⟩)
    · exact .inr (.inr ⟨.fenc, rfl⟩)

/-- A write of `CMD` has a next state whatever the word: that of its instruction, or the error of an illegal command. -/
theorem fetchEvent_cmd_answers (w : Word) (s : State) :
    ∃ t, (State.fetchEvent (.wr 0x000 w) s).outcome = .next t := by
  cases h : decode (.cmd w) with
  | error e => exact ⟨_, fetchEvent_illegal w s e h⟩
  | ok i =>
    rw [fetchEvent_cmd w s i h]
    rcases decode_cmd_cases w i h with rfl | rfl | ⟨cmd, rfl⟩
    · exact ⟨_, rfl⟩
    · exact ⟨_, rfl⟩
    · exact ⟨_, exec_passInstr cmd s⟩

/-- A write of `DIN` has a next state: a push. -/
theorem fetchEvent_din_answers (d : Word) (s : State) :
    ∃ t, (State.fetchEvent (.wr 0x003 d) s).outcome = .next t :=
  ⟨_, fetchEvent_push d s⟩

/-! ## R66 -/

/-- A write event is refused at the locations that have no writing, and only there. -/
theorem fetchEvent_wr_refused_iff (a : Addr) (d : Word) (s : State) :
    (∃ r, (State.fetchEvent (.wr a d) s).outcome = .refused r) ↔ ¬ (locate s.config a).writable = true := by
  by_cases h0 : a = 0x000
  · subst h0
    obtain ⟨t, ht⟩ := fetchEvent_cmd_answers d s
    have hloc : locate s.config 0x000 = .cmd := rfl
    rw [ht, hloc]
    simp [Loc.writable]
  by_cases h3 : a = 0x003
  · subst h3
    obtain ⟨t, ht⟩ := fetchEvent_din_answers d s
    have hloc : locate s.config 0x003 = .din := rfl
    rw [ht, hloc]
    simp [Loc.writable]
  rw [fetchEvent_write a d s h0 h3]
  exact State.busWrite_refused_iff a d s h0 h3

/-- Settles O55: an access is refused according to the location of its address, and the locations that a host can read or
write are those at the addresses of the map. -/
theorem undefinedAccessesRefused : Obligations.UndefinedAccessesRefused := by
  intro s a d rest hw _
  obtain ⟨hread, hwrite⟩ := locate_access s.config a
  refine ⟨fun he => ?read, fun he => ?write⟩
  case read =>
    rw [step_event s _ rest hw he, fetchEvent_rd, State.busRead_refused_iff, State.take_config, hread]
  case write =>
    rw [step_event s _ rest hw he, fetchEvent_wr_refused_iff, State.take_config, hwrite]

end Sys2Proof.Machine
end

section
/-! PROOFS. The closed form of the unpacker and its length law (40_unpack.md R112, R113). -/

namespace Sys2Proof.Machine

/-! ## One natural byte, bit by bit -/

/-- The seven low bits are the data byte's (40_unpack.md R112). -/
theorem naturalByte_getLsbD_low (bm b : Byte) (k i : Nat) (h : i < 7) :
    (naturalByte bm k b).getLsbD i = b.getLsbD i := by
  simp [naturalByte, h]

/-- The high bit is the data byte's, or the bitmap's bit for that byte (40_unpack.md R112). -/
theorem naturalByte_getLsbD_high (bm b : Byte) (k : Nat) :
    (naturalByte bm k b).getLsbD 7 = (b.getLsbD 7 || bm.getLsbD k) := by
  simp [naturalByte]

/-! ## The unpacker, chunk by chunk -/

@[simp] theorem unpack_nil : unpack [] = [] := rfl

/-- The last `m` lanes of a chunk, as many as the input reaches; then the next chunk (40_unpack.md R115). -/
theorem unpackFrom_lanes (bm : Byte) (m : Nat) (hm : m ≤ 7) (bs : List Byte) :
    unpackFrom (BitVec.ofNat 3 (8 - m)) bm bs =
      (bs.take m).mapIdx (fun i => naturalByte bm (7 - m + i)) ++ unpack (bs.drop m) := by
  induction m generalizing bs with
  | zero => exact unpackFrom_zero_bm bm 0 bs
  | succ m ih =>
    cases bs with
    | nil => rfl
    | cons b bs =>
      have hk : (BitVec.ofNat 3 (8 - (m + 1))).toNat = 7 - m := by rw [BitVec.toNat_ofNat]; omega
      have hne : BitVec.ofNat 3 (8 - (m + 1)) ≠ 0 := fun h0 => by
        have : 7 - m = 0 := by rw [← hk, h0]; rfl
        omega
      have hnext : BitVec.ofNat 3 (8 - (m + 1)) + 1 = BitVec.ofNat 3 (8 - m) := by
        rw [show 8 - m = 8 - (m + 1) + 1 by omega, BitVec.ofNat_add]; rfl
      have hlane : ∀ i, 7 - (m + 1) + (i + 1) = 7 - m + i := fun i => by omega
      rw [unpackFrom_data _ _ _ _ hne, hnext, ih (by omega), hk, List.take_succ_cons, List.mapIdx_cons,
        List.drop_succ_cons, List.cons_append]
      simp only [hlane, Nat.add_zero, Nat.sub_sub]

/-- One chunk, full or partial, then the rest: the bitmap, and the lanes of up to seven data bytes (40_unpack.md R115). -/
theorem unpack_cons (bm : Byte) (bs : List Byte) :
    unpack (bm :: bs) = (bs.take 7).mapIdx (naturalByte bm) ++ unpack (bs.drop 7) := by
  have hlanes := unpackFrom_lanes bm 7 (Nat.le_refl 7) bs
  simp only [Nat.sub_self, Nat.zero_add] at hlanes
  exact hlanes

/-- The first seven output bytes are the lanes of the first chunk. -/
theorem unpack_cons_getElem?_first (bm : Byte) (bs : List Byte) (j : Nat) (hj : j < 7) :
    (unpack (bm :: bs))[j]? = bs[j]?.map (naturalByte bm j) := by
  rw [unpack_cons]
  by_cases hlen : j < bs.length
  · rw [List.getElem?_append_left (by simp; omega), List.getElem?_mapIdx, List.getElem?_take_of_lt hj]
  · rw [List.drop_eq_nil_of_le (by omega), List.getElem?_eq_none (by simp; omega),
      List.getElem?_eq_none (by omega), Option.map_none]

/-- The other output bytes are those of the input after the first chunk. -/
theorem unpack_cons_getElem?_later (bm : Byte) (bs : List Byte) (i : Nat) :
    (unpack (bm :: bs))[i + 7]? = (unpack (bs.drop 7))[i]? := by
  rw [unpack_cons]
  by_cases hlen : 7 ≤ bs.length
  · rw [List.getElem?_append_right (by simp)]
    simp [hlen]
  · rw [List.drop_eq_nil_of_le (by omega), List.getElem?_eq_none (by simp)]
    rfl

/-! ## Where an output byte comes from -/

/-- The first seven output bytes come from the first chunk. -/
theorem packedDataOffset_of_lt_seven (j : Nat) (h : j < 7) : packedDataOffset j = j + 1 := by
  unfold packedDataOffset; omega

theorem packedHighBit_of_lt_seven (j : Nat) (h : j < 7) : packedHighBit j = (0, j) := by
  rw [packedHighBit, Nat.div_eq_of_lt h, Nat.mod_eq_of_lt h]

/-- Past the first seven, an output byte's data byte stands one chunk further on. -/
theorem packedDataOffset_add_seven (j : Nat) : packedDataOffset (j + 7) = 7 + packedDataOffset j + 1 := by
  unfold packedDataOffset; omega

theorem packedHighBit_add_seven (j : Nat) :
    packedHighBit (j + 7) = (7 + (packedHighBit j).1 + 1, (packedHighBit j).2) := by
  rw [packedHighBit, packedHighBit, Nat.add_div_right j (by decide), Nat.add_mod_right]
  ext <;> dsimp only; omega

/-- The closed form, present or absent (40_unpack.md R112): output byte `j` is the data byte at its packed offset, with
the bit of its chunk's bitmap. -/
theorem unpack_getElem? (p : List Byte) (j : Nat) :
    (unpack p)[j]? =
      p[packedDataOffset j]?.map (naturalByte (p.getD (packedHighBit j).1 0) (packedHighBit j).2) := by
  match p with
  | [] => rfl
  | bm :: bs =>
    by_cases hj : j < 7
    · rw [unpack_cons_getElem?_first bm bs j hj, packedDataOffset_of_lt_seven j hj, packedHighBit_of_lt_seven j hj]
      rfl
    · obtain ⟨i, rfl⟩ := Nat.exists_eq_add_of_le' (Nat.le_of_not_lt hj)
      rw [unpack_cons_getElem?_later, unpack_getElem? (bs.drop 7) i, packedDataOffset_add_seven,
        packedHighBit_add_seven]
      simp [List.getElem?_drop]
termination_by p.length

/-- Output index `j` exists exactly when its data byte does (40_unpack.md R112). -/
theorem lt_unpack_length_iff (p : List Byte) (j : Nat) : j < (unpack p).length ↔ packedDataOffset j < p.length := by
  rw [← not_le, ← not_le, ← List.getElem?_eq_none_iff, unpack_getElem?, Option.map_eq_none_iff,
    List.getElem?_eq_none_iff]

/-- The packed offset of natural offset `j` is inside `l` bytes exactly when `j` is below their natural length. -/
theorem packedDataOffset_lt_iff (j l : Nat) : packedDataOffset j < l ↔ j < ulen l := by
  unfold packedDataOffset ulen; omega

/-- The length law (40_unpack.md R113). -/
theorem unpack_length (p : List Byte) : (unpack p).length = ulen p.length :=
  eq_of_forall_lt_iff fun j => by rw [lt_unpack_length_iff, packedDataOffset_lt_iff]

/-- The closed form at an index that exists (40_unpack.md R112). -/
theorem unpack_getD (p : List Byte) (j : Nat) (h : j < (unpack p).length) :
    (unpack p).getD j 0 =
      naturalByte (p.getD (packedHighBit j).1 0) (packedHighBit j).2 (p.getD (packedDataOffset j) 0) := by
  have hp := (lt_unpack_length_iff p j).mp h
  rw [List.getD_eq_getElem?_getD, unpack_getElem?, List.getElem?_eq_getElem hp, List.getD_eq_getElem _ _ hp]
  rfl

/-! ## R112 and R113 -/

/-- Settles O11: every output byte is one `naturalByte`, whose bits are known. -/
theorem unpackClosedForm : Obligations.UnpackClosedForm := by
  intro p
  refine ⟨unpack_length p, fun j => ⟨lt_unpack_length_iff p j, fun hj => ?_⟩⟩
  rw [unpack_getD p j hj]
  exact ⟨rfl, fun b hb => naturalByte_getLsbD_low _ _ _ _ hb, naturalByte_getLsbD_high _ _ _⟩

/-- Settles O12: the length law, in both spellings, and its values. -/
theorem unpackLength : Obligations.UnpackLength := by
  refine ⟨fun p => ⟨unpack_length p, ?_⟩, by decide⟩
  rw [unpack_length, ulen, Nat.zero_max]

end Sys2Proof.Machine
end

section
/-! PROOFS. The closed form of the packer, its length law and image, and the round trips (41_pack.md R121 to R126). -/

namespace Sys2Proof.Machine

/-! ## Bytes of seven bits -/

/-- A byte is at most 127 exactly when its bit 7 is clear (41_pack.md R126). -/
theorem byte_le_127_iff (b : Byte) : b.toNat ≤ 127 ↔ b.getLsbD 7 = false := by
  have hmsb := BitVec.msb_eq_decide b
  rw [BitVec.msb_eq_getLsbD_last] at hmsb
  rw [hmsb, decide_eq_false_iff_not]
  omega

theorem getD_getLsbD_seven_of_clean {y : List Byte} (h : ∀ b ∈ y, b.toNat ≤ 127) (i : Nat) :
    (y.getD i 0).getLsbD 7 = false := by
  by_cases hi : i < y.length
  · rw [List.getD_eq_getElem y 0 hi]
    exact (byte_le_127_iff _).mp (h _ (List.getElem_mem hi))
  · rw [List.getD_eq_default y 0 (by omega)]
    rfl

/-! ## One packed byte, bit by bit -/

theorem packedByte_getLsbD_low (x : Byte) (i : Nat) (h : i < 7) : (packedByte x).getLsbD i = x.getLsbD i := by
  have hmask : (0x7F : Byte).getLsbD i = true := by
    revert i; decide
  rw [packedByte, BitVec.getLsbD_and, hmask, Bool.and_true]

theorem packedByte_getLsbD_seven (x : Byte) : (packedByte x).getLsbD 7 = false := by
  rw [packedByte, BitVec.getLsbD_and]
  exact Bool.and_false _

/-- Two bytes with the same seven low bits and the same bit 7 are one. -/
theorem byte_ext {a b : Byte} (hlow : ∀ i < 7, a.getLsbD i = b.getLsbD i) (h7 : a.getLsbD 7 = b.getLsbD 7) : a = b :=
  BitVec.eq_of_getLsbD_eq fun i hi => by
    rcases Nat.lt_succ_iff_lt_or_eq.mp hi with hlt | rfl
    · exact hlow i hlt
    · exact h7

/-- A packed byte joined with its own bit 7 is the natural byte again (41_pack.md R124). -/
theorem naturalByte_packedByte {bm x : Byte} {k : Nat} (h : bm.getLsbD k = x.getLsbD 7) :
    naturalByte bm k (packedByte x) = x := by
  refine byte_ext (fun i hi => ?_) ?_
  · rw [naturalByte_getLsbD_low _ _ _ _ hi, packedByte_getLsbD_low _ _ hi]
  · rw [naturalByte_getLsbD_high, packedByte_getLsbD_seven, Bool.false_or, h]

/-- A clean data byte comes back from its natural byte (41_pack.md R125). -/
theorem packedByte_naturalByte {bm b : Byte} {k : Nat} (h : b.getLsbD 7 = false) :
    packedByte (naturalByte bm k b) = b := by
  refine byte_ext (fun i hi => ?_) ?_
  · rw [packedByte_getLsbD_low _ _ hi, naturalByte_getLsbD_low _ _ _ _ hi]
  · rw [packedByte_getLsbD_seven, h]

/-! ## The bitmap of a chunk, bit by bit -/

/-- A bitmap begun at bit `r` leaves the bits below clear. -/
theorem bitmapFrom_getLsbD_of_lt (r i : Nat) (xs : List Byte) (h : i < r) : (bitmapFrom r xs).getLsbD i = false := by
  induction xs generalizing r with
  | nil => exact BitVec.getLsbD_zero
  | cons x xs ih =>
    rw [bitmapFrom, BitVec.getLsbD_or, ih (r + 1) (by omega)]
    simp [h]

/-- Bit `r + i` of a bitmap begun at bit `r` is bit 7 of the chunk's byte `i`, clear past its end (41_pack.md R121). -/
theorem bitmapFrom_getLsbD_add (r i : Nat) (xs : List Byte) (h : r + i < 8) :
    (bitmapFrom r xs).getLsbD (r + i) = (xs.getD i 0).getLsbD 7 := by
  induction xs generalizing r i with
  | nil => simp [bitmapFrom]
  | cons x xs ih =>
    rw [bitmapFrom, BitVec.getLsbD_or]
    cases i with
    | zero =>
      rw [bitmapFrom_getLsbD_of_lt (r + 1) (r + 0) xs (by omega)]
      simp [show r < 8 by omega]
    | succ i =>
      have hx : ((x >>> 7) <<< r).getLsbD (r + (i + 1)) = false := by
        rw [BitVec.getLsbD_shiftLeft, BitVec.getLsbD_ushiftRight, BitVec.getLsbD_of_ge x _ (by omega), Bool.and_false]
      rw [hx, Bool.false_or, show r + (i + 1) = r + 1 + i by omega]
      exact ih (r + 1) i (by omega)

/-! ## The packer, chunk by chunk -/

/-- The first chunk, full or partial, then the rest (41_pack.md R121). -/
theorem pack_of_ne_nil (x : List Byte) (h : x ≠ []) : pack x = packChunk (x.take 7) ++ pack (x.drop 7) := by
  match x with
  | [] => exact absurd rfl h
  | [_] | [_, _] | [_, _, _] | [_, _, _, _] | [_, _, _, _, _] | [_, _, _, _, _, _] =>
    exact (List.append_nil _).symm
  | _ :: _ :: _ :: _ :: _ :: _ :: _ :: _ => rfl

theorem plen_pos (n : Nat) (h : 0 < n) : 0 < plen n := by
  unfold plen; omega

theorem lt_plen_sub_seven_iff (p n : Nat) : p < plen (n - 7) ↔ p + 8 < plen n := by
  unfold plen; omega

theorem succ_lt_plen_iff_of_lt_seven (i n : Nat) (h : i < 7) : i + 1 < plen n ↔ i < n := by
  unfold plen; omega

/-- The first chunk's bitmap. -/
theorem pack_getElem?_bitmap (x : List Byte) (h : x ≠ []) : (pack x)[0]? = some (bitmapFrom 0 (x.take 7)) := by
  rw [pack_of_ne_nil x h]
  rfl

/-- The first chunk's data bytes. -/
theorem pack_getElem?_data (x : List Byte) (i : Nat) (hi : i < 7) : (pack x)[i + 1]? = x[i]?.map packedByte := by
  by_cases hx : x = []
  · rw [hx]; rfl
  rw [pack_of_ne_nil x hx]
  by_cases hlen : i < x.length
  · rw [List.getElem?_append_left (by simp; omega), packChunk, List.getElem?_cons_succ, List.getElem?_map,
      List.getElem?_take_of_lt hi]
  · rw [List.drop_eq_nil_of_le (by omega), pack_nil, List.getElem?_eq_none (by simp; omega),
      List.getElem?_eq_none (by omega), Option.map_none]

/-- The bytes after the first chunk's. -/
theorem pack_getElem?_later (x : List Byte) (p : Nat) : (pack x)[p + 8]? = (pack (x.drop 7))[p]? := by
  by_cases hx : x = []
  · rw [hx]; rfl
  rw [pack_of_ne_nil x hx]
  by_cases hlen : 7 ≤ x.length
  · rw [List.getElem?_append_right (by simp)]
    simp [hlen]
  · rw [List.drop_eq_nil_of_le (by omega), pack_nil, List.getElem?_eq_none (by simp)]
    rfl

/-! ## Every packed byte -/

theorem packedAt_zero (x : List Byte) : packedAt x 0 = bitmapFrom 0 (x.take 7) := rfl

theorem packedAt_bitmap (x : List Byte) (q : Nat) : packedAt x (8 * q) = bitmapFrom 0 ((x.drop (7 * q)).take 7) := by
  rw [packedAt, if_pos (Nat.mul_mod_right 8 q), Nat.mul_div_cancel_left q (by decide)]

theorem packedAt_data (x : List Byte) (j : Nat) : packedAt x (packedDataOffset j) = packedByte (x.getD j 0) := by
  have hmod : packedDataOffset j % 8 = 1 + j % 7 := by unfold packedDataOffset; omega
  have hdiv : packedDataOffset j / 8 = j / 7 := by unfold packedDataOffset; omega
  rw [packedAt, if_neg (by omega), hmod, hdiv, Nat.add_sub_cancel_left, Nat.div_add_mod]

/-- A packed byte past the first chunk is one of the rest's. -/
theorem packedAt_add_eight (x : List Byte) (p : Nat) : packedAt x (p + 8) = packedAt (x.drop 7) p := by
  have hdrop : 7 * (p / 8 + 1) = 7 + 7 * (p / 8) := by omega
  have hget (n : Nat) : (x.drop 7).getD n 0 = x.getD (7 + n) 0 := by
    simp only [List.getD_eq_getElem?_getD, List.getElem?_drop]
  rw [packedAt, packedAt, Nat.add_mod_right, Nat.add_div_right p (by decide), hdrop, List.drop_drop, hget,
    Nat.add_assoc]

/-- The closed form, present or absent (41_pack.md R121, R122): the packed sequence has `plen` bytes, and `packedAt` is
each of them. -/
theorem pack_getElem? (x : List Byte) (p : Nat) :
    (pack x)[p]? = if p < plen x.length then some (packedAt x p) else none := by
  by_cases hx : x = []
  · rw [hx]; rfl
  have hpos := List.length_pos_iff.mpr hx
  match p with
  | 0 => rw [pack_getElem?_bitmap x hx, if_pos (plen_pos _ hpos), packedAt_zero]
  | p + 1 =>
    by_cases hp : p < 7
    · simp only [pack_getElem?_data x p hp, succ_lt_plen_iff_of_lt_seven p _ hp]
      rw [← packedDataOffset_of_lt_seven p hp, packedAt_data]
      split
      next h => rw [List.getElem?_eq_getElem h, List.getD_eq_getElem x 0 h, Option.map_some]
      next h => rw [List.getElem?_eq_none (by omega), Option.map_none]
    · obtain ⟨i, rfl⟩ := Nat.exists_eq_add_of_le' (Nat.le_of_not_lt hp)
      have hshorter : (x.drop 7).length < x.length := by simp; omega
      have h := pack_getElem? (x.drop 7) i
      rw [List.length_drop] at h
      simp only [lt_plen_sub_seven_iff] at h
      rw [pack_getElem?_later x i, h, packedAt_add_eight]
termination_by x.length

/-- The length law (41_pack.md R122). -/
theorem pack_length (x : List Byte) : (pack x).length = plen x.length :=
  eq_of_forall_lt_iff fun p => by
    rw [← not_le, ← List.getElem?_eq_none_iff, pack_getElem?]
    simp

theorem pack_getD (x : List Byte) (p : Nat) (h : p < plen x.length) : (pack x).getD p 0 = packedAt x p := by
  rw [List.getD_eq_getElem?_getD, pack_getElem?, if_pos h]
  rfl

/-- Bit `b` of chunk `q`'s bitmap is bit 7 of natural byte `7q + b`; bit 7 is clear (41_pack.md R121, R126). -/
theorem packedAt_bitmap_getLsbD (x : List Byte) (q b : Nat) (hb : b < 8) :
    (packedAt x (8 * q)).getLsbD b = (decide (b < 7) && (x.getD (7 * q + b) 0).getLsbD 7) := by
  have hbit := bitmapFrom_getLsbD_add 0 b ((x.drop (7 * q)).take 7) (by omega)
  rw [Nat.zero_add] at hbit
  rw [packedAt_bitmap, hbit, List.getD_eq_getElem?_getD, List.getElem?_take, List.getElem?_drop]
  by_cases h : b < 7 <;> simp [h]

/-- An offset of a packed sequence is a bitmap's or a data byte's. -/
theorem packed_offset_cases (p : Nat) : (∃ q, p = 8 * q) ∨ ∃ j, p = packedDataOffset j := by
  by_cases h : p % 8 = 0
  · exact .inl ⟨p / 8, by omega⟩
  · exact .inr ⟨7 * (p / 8) + (p % 8 - 1), by unfold packedDataOffset; omega⟩

/-- Bitmap or data byte, bit 7 is clear (41_pack.md R126). -/
theorem packedAt_getLsbD_seven (x : List Byte) (p : Nat) : (packedAt x p).getLsbD 7 = false := by
  obtain ⟨q, rfl⟩ | ⟨j, rfl⟩ := packed_offset_cases p
  · rw [packedAt_bitmap_getLsbD x q 7 (by decide)]
    rfl
  · rw [packedAt_data, packedByte_getLsbD_seven]

theorem pack_clean (x : List Byte) : ∀ b ∈ pack x, b.toNat ≤ 127 := by
  intro b hb
  obtain ⟨p, hp, rfl⟩ := List.getElem_of_mem hb
  rw [← List.getD_eq_getElem _ 0 hp, pack_getD x p (pack_length x ▸ hp)]
  exact (byte_le_127_iff _).mpr (packedAt_getLsbD_seven x p)

/-! ## Lengths and offsets -/

/-- The packer makes no lone bitmap (41_pack.md R122). -/
theorem plen_mod_ne_one (n : Nat) : plen n % 8 ≠ 1 := by
  unfold plen; omega

/-- A length without a lone bitmap comes back from its natural length (41_pack.md R125). -/
theorem plen_ulen {l : Nat} (h : l % 8 ≠ 1) : plen (ulen l) = l := by
  unfold plen ulen; omega

/-- The data byte of natural offset `j` is inside the packed sequence exactly when `j` is inside the natural one. -/
theorem packedDataOffset_lt_plen_iff (j n : Nat) : packedDataOffset j < plen n ↔ j < n := by
  unfold packedDataOffset plen; omega

/-- The bitmap of a natural offset stands before its data byte. -/
theorem packedHighBit_lt_packedDataOffset (j : Nat) : (packedHighBit j).1 < packedDataOffset j := by
  unfold packedDataOffset packedHighBit; omega

theorem packedDataOffset_chunk (q : Nat) {r : Nat} (hr : r < 7) : packedDataOffset (7 * q + r) = 8 * q + 1 + r := by
  unfold packedDataOffset; omega

theorem packedHighBit_chunk (q : Nat) {r : Nat} (hr : r < 7) : packedHighBit (7 * q + r) = (8 * q, r) := by
  unfold packedHighBit
  ext <;> dsimp only <;> omega

/-! ## Unpacking what was packed -/

/-- The bitmap bit that the unpacker reads for natural offset `j` is that byte's bit 7 (41_pack.md R124). -/
theorem packedAt_packedHighBit (x : List Byte) (j : Nat) :
    (packedAt x (packedHighBit j).1).getLsbD (packedHighBit j).2 = (x.getD j 0).getLsbD 7 := by
  have hr : j % 7 < 7 := Nat.mod_lt j (by decide)
  rw [packedHighBit, packedAt_bitmap_getLsbD x (j / 7) (j % 7) (by omega), Nat.div_add_mod]
  simp [hr]

theorem unpack_pack (x : List Byte) : unpack (pack x) = x := by
  refine List.ext_getElem? fun j => ?_
  rw [unpack_getElem?, pack_getElem?]
  simp only [packedDataOffset_lt_plen_iff]
  split
  next hj =>
    have hbitmap := (packedHighBit_lt_packedDataOffset j).trans ((packedDataOffset_lt_plen_iff j x.length).mpr hj)
    rw [Option.map_some, pack_getD x _ hbitmap, packedAt_data, naturalByte_packedByte (packedAt_packedHighBit x j),
      List.getElem?_eq_getElem hj, List.getD_eq_getElem x 0 hj]
  next hj => rw [List.getElem?_eq_none (by omega), Option.map_none]

/-! ## Packing what was unpacked -/

/-- The packer's output meets the three conditions: it leaves clear the bits of a bitmap past the natural sequence's end
(41_pack.md R123). -/
theorem validlyPacked_pack (x : List Byte) : ValidlyPacked (pack x) := by
  refine ⟨pack_clean x, ?_, fun hpartial i hi => ?_⟩
  · rw [pack_length]
    exact plen_mod_ne_one x.length
  · rw [pack_length] at hpartial hi ⊢
    have hend : x.length ≤ 7 * (plen x.length / 8) + i := by unfold plen at *; omega
    rw [pack_getD x _ (by omega), packedAt_bitmap_getLsbD x _ _ (by omega), List.getD_eq_default x 0 hend]
    exact Bool.and_false _

/-- Of a validly packed sequence, an unused bit of the last bitmap is clear: it has no data byte. -/
theorem ValidlyPacked.unused_bit {y : List Byte} (h : ValidlyPacked y) {q i : Nat} (hi : i < 7)
    (hq : 8 * q < y.length) (hdata : y.length ≤ 8 * q + 1 + i) : (y.getD (8 * q) 0).getLsbD i = false := by
  obtain ⟨-, hlone, hunused⟩ := h
  have hlast : q = y.length / 8 := by omega
  rw [hlast]
  exact hunused (by omega) ⟨i, hi⟩ (by dsimp only; omega)

/-- A validly packed sequence's bitmap is rebuilt: a used bit from the high bit that the unpacker set, an unused bit as
clear as it was (41_pack.md R125). -/
theorem packedAt_unpack_bitmap {y : List Byte} (h : ValidlyPacked y) (q : Nat) (hq : 8 * q < y.length) :
    packedAt (unpack y) (8 * q) = y.getD (8 * q) 0 := by
  refine byte_ext (fun i hi => ?low) ?seven
  case low =>
    rw [packedAt_bitmap_getLsbD _ q i (by omega), decide_eq_true hi, Bool.true_and]
    by_cases hj : 7 * q + i < (unpack y).length
    · rw [unpack_getD y _ hj, naturalByte_getLsbD_high, getD_getLsbD_seven_of_clean h.1, Bool.false_or,
        packedHighBit_chunk q hi]
    · have hdata := mt (lt_unpack_length_iff y _).mpr hj
      rw [packedDataOffset_chunk q hi] at hdata
      rw [List.getD_eq_default _ _ (by omega), h.unused_bit hi hq (by omega)]
      exact BitVec.getLsbD_zero
  case seven => rw [packedAt_getLsbD_seven, getD_getLsbD_seven_of_clean h.1]

theorem packedAt_unpack {y : List Byte} (h : ValidlyPacked y) (p : Nat) (hp : p < y.length) :
    packedAt (unpack y) p = y.getD p 0 := by
  obtain ⟨q, rfl⟩ | ⟨j, rfl⟩ := packed_offset_cases p
  · exact packedAt_unpack_bitmap h q hp
  · rw [packedAt_data, unpack_getD y j ((lt_unpack_length_iff y j).mpr hp),
      packedByte_naturalByte (getD_getLsbD_seven_of_clean h.1 _)]

theorem pack_unpack_of_validlyPacked {y : List Byte} (h : ValidlyPacked y) : pack (unpack y) = y := by
  refine List.ext_getElem? fun p => ?_
  rw [pack_getElem?, unpack_length, plen_ulen h.2.1]
  split
  next hp => rw [packedAt_unpack h p hp, List.getElem?_eq_getElem hp, List.getD_eq_getElem y 0 hp]
  next hp => rw [List.getElem?_eq_none (by omega)]

theorem pack_unpack_eq_iff (y : List Byte) : pack (unpack y) = y ↔ ValidlyPacked y :=
  ⟨fun h => h ▸ validlyPacked_pack (unpack y), pack_unpack_of_validlyPacked⟩

/-- The image of the packer (41_pack.md R123). -/
theorem validlyPacked_iff_exists_pack (y : List Byte) : ValidlyPacked y ↔ ∃ x, pack x = y :=
  ⟨fun h => ⟨unpack y, pack_unpack_of_validlyPacked h⟩, fun ⟨x, hx⟩ => hx ▸ validlyPacked_pack x⟩

/-! ## R121 to R126 -/

/-- Settles O19: the unpacker reads the two places to which the packer wrote a natural byte. -/
theorem unpackPackRoundTrip : Obligations.UnpackPackRoundTrip := unpack_pack

/-- Settles O20: the packer's output is validly packed, and it rebuilds every byte of a validly packed sequence. -/
theorem packUnpackRoundTrip : Obligations.PackUnpackRoundTrip := by
  refine ⟨pack_unpack_eq_iff, ?_, ?_, ?_, ?_⟩ <;> decide

/-- Settles O14: the length law, in both spellings, and its values. -/
theorem packLength : Obligations.PackLength := by
  refine ⟨fun x => ⟨pack_length x, pack_length x, ?_⟩, by decide⟩
  rw [pack_length]
  exact plen_mod_ne_one x.length

/-- Settles O15: a natural offset's data byte and bitmap are inside the packed sequence, and both are known. -/
theorem packClosedForm : Obligations.PackClosedForm := by
  refine ⟨pack_nil, pack_length, fun x q r hr hx => ?_⟩
  have hdata := (packedDataOffset_lt_plen_iff (7 * q + r) x.length).mpr hx
  rw [← packedDataOffset_chunk q hr, pack_getD x _ hdata, packedAt_data]
  rw [packedDataOffset_chunk q hr] at hdata
  rw [pack_getD x (8 * q) (by omega)]
  exact ⟨rfl, packedAt_bitmap_getLsbD x q⟩

/-- Settles O16: every byte is a `packedAt`, whose bit 7 is clear. -/
theorem packIsSevenBitClean : Obligations.PackIsSevenBitClean := pack_clean

/-- Settles O21: the rule's `m` is the number of data bytes of the last partial chunk; a validly packed sequence is the
packer's output on its unpacked bytes. -/
theorem packImageIsValidlyPacked : Obligations.PackImageIsValidlyPacked := by
  refine fun y => ⟨⟨fun ⟨hclean, hlone, hunused⟩ => ?_, fun ⟨hclean, hlone, hunused⟩ => ?_⟩,
    validlyPacked_iff_exists_pack y⟩
  · refine ⟨hclean, hlone, fun m hm _ hlen b hmb hb => ?_⟩
    exact hunused (by omega) ⟨b, by omega⟩ (by dsimp only; omega)
  · refine ⟨hclean, hlone, fun hpartial i hi => ?_⟩
    exact hunused (y.length % 8 - 1) (by omega) (by omega) (by omega) i hi (by omega)

end Sys2Proof.Machine
end

section
/-! PROOFS. Enumerated field dispatch and its round trips (42_record.md R132, R133). -/

namespace Sys2Proof.Machine

/-! ## The lookup -/

/-- Codes are injective within each enumeration (00_scope.md R9). -/
theorem variant_eq_of_code_eq {c : Config} (h : c.EnumCodeOk) {e : Kind} {v w : Variant}
    (hv : v ∈ e.variants) (hw : w ∈ e.variants) (hvw : c.enumCode.code v = c.enumCode.code w) : v = w := by
  obtain ⟨hmode, hled, hassign, hbehav⟩ := h
  cases e with
  | mode => exact List.inj_on_of_nodup_map hmode hv hw hvw
  | led => exact List.inj_on_of_nodup_map hled hv hw hvw
  | assign => exact List.inj_on_of_nodup_map hassign hv hw hvw
  | behav => exact List.inj_on_of_nodup_map hbehav hv hw hvw
  | u8 | rsvd => cases hv

/-- A recognised byte is the code of the variant that the lookup answers. -/
theorem code_of_enumDecode_known {c : Config} {e : Kind} {b : Byte} {v : Variant}
    (h : enumDecode c e b = .known v) : c.enumCode.code v = b := by
  unfold enumDecode at h
  split at h
  next u hu =>
    cases h
    simpa using List.find?_some hu
  next => cases h

/-- The lookup fails exactly on a byte that is no variant's code, and answers that byte. -/
theorem enumDecode_eq_unrecognized_iff (c : Config) (e : Kind) (b r : Byte) :
    enumDecode c e b = .unrecognized r ↔ r = b ∧ ∀ v ∈ e.variants, c.enumCode.code v ≠ b := by
  unfold enumDecode
  split
  next v hv =>
    have hcode : c.enumCode.code v = b := by simpa using List.find?_some hv
    exact ⟨nofun, fun ⟨_, hnone⟩ => absurd hcode (hnone v (List.mem_of_find?_eq_some hv))⟩
  next hnone =>
    have hne : ∀ v ∈ e.variants, c.enumCode.code v ≠ b := by simpa using hnone
    rw [EnumVal.unrecognized.injEq, eq_comm, and_iff_left hne]

/-- The lookup answers the variant with the code `b`, which is the only one. -/
theorem enumDecode_eq_known_iff {c : Config} (h : c.EnumCodeOk) (e : Kind) (b : Byte) (v : Variant) :
    enumDecode c e b = .known v ↔ v ∈ e.variants ∧ c.enumCode.code v = b := by
  refine ⟨fun hv => ⟨mem_variants_of_enumDecode_known c e b v hv, code_of_enumDecode_known hv⟩,
    fun ⟨hv, hcode⟩ => ?_⟩
  cases hd : enumDecode c e b with
  | known w =>
    have hw := mem_variants_of_enumDecode_known c e b w hd
    rw [variant_eq_of_code_eq h hv hw (hcode.trans (code_of_enumDecode_known hd).symm)]
  | unrecognized r =>
    obtain ⟨_, hnone⟩ := (enumDecode_eq_unrecognized_iff c e b r).mp hd
    exact absurd hcode (hnone v hv)

/-! ## R132 and R133 -/

/-- No byte is lost by the lookup, recognised or not. -/
theorem enumEncode_enumDecode (c : Config) (e : Kind) (b : Byte) : enumEncode c (enumDecode c e b) = b := by
  cases hd : enumDecode c e b with
  | known v => exact code_of_enumDecode_known hd
  | unrecognized r => exact ((enumDecode_eq_unrecognized_iff c e b r).mp hd).1

/-- A well-formed value is found again from its byte. -/
theorem enumDecode_enumEncode {c : Config} (h : c.EnumCodeOk) {e : Kind} {x : EnumVal} (hx : enumOk c e x) :
    enumDecode c e (enumEncode c x) = x := by
  cases x with
  | known v => exact (enumDecode_eq_known_iff h e _ v).mpr ⟨hx, rfl⟩
  | unrecognized b => exact (enumDecode_eq_unrecognized_iff c e b b).mpr ⟨rfl, hx⟩

/-- Settles O22: what the lookup finds, and when it finds nothing. -/
theorem enumDecodeFindsVariant : Obligations.EnumDecodeFindsVariant := fun c e b h =>
  ⟨enumDecode_eq_known_iff h e b, enumDecode_eq_unrecognized_iff c e b⟩

/-- Settles O23: the two cases of `enum_encode`, then the round trip from each side. -/
theorem enumRoundTrip : Obligations.EnumRoundTrip := fun c e h =>
  ⟨fun _ => rfl, fun _ => rfl, enumEncode_enumDecode c e, fun _ => enumDecode_enumEncode h⟩

end Sys2Proof.Machine
end

section
/-! PROOFS. The record walker: the rule of a cell, and the first failure of a walk of any length (42_record.md R142). -/

namespace Sys2Proof.Machine

/-! ## The rule of one cell -/

/-- The rule of an enumeration kind, by whether the byte is a code of the enumeration. -/
theorem ruleEnum_eq (e : Kind) (c : Config) (es : Bool) (np : Nat) (b : Byte) :
    ruleEnum e c es np b =
      if ∀ v ∈ e.variants, c.enumCode.code v ≠ b then
        if es then .error ⟨.unrecognizedEnum, .natural, word np, (kindCode e).setWidth 16, b.setWidth 16⟩
        else .ok true
      else .ok false := by
  have hiff := enumDecode_eq_unrecognized_iff c e b b
  rcases ruleEnum_cases e c es np b with ⟨v, hd, hr⟩ | ⟨hd, rfl, hr⟩ | ⟨hd, rfl, hr⟩
  · have hmem := mem_variants_of_enumDecode_known c e b v hd
    rw [hr, if_neg fun hnone => hnone v hmem (code_of_enumDecode_known hd)]
  · rw [hr, if_pos (hiff.mp hd).2]
    rfl
  · rw [hr, if_pos (hiff.mp hd).2]
    rfl

/-- What the walk does with a cell: it raises for a reserved byte that is not 0 and, if `ES` = 1, for an unrecognised
byte, and it passes every other byte (42_record.md R142). -/
theorem kindRule_kindAt (c : Config) (es : Bool) (i : Nat) (b : Byte) :
    kindRule (kindAt c i) c es i b =
      if ReservedNonzero c i b then .error ⟨.reservedByte, .natural, word i, 0, b.setWidth 16⟩
      else if Unrecognised c i b then
        if es then
          .error ⟨.unrecognizedEnum, .natural, word i, (kindCode (kindAt c i)).setWidth 16, b.setWidth 16⟩
        else .ok true
      else .ok false := by
  simp only [ReservedNonzero, Unrecognised]
  cases kindAt c i with
  | u8 => simp [kindRule, ruleU8, isEnum]
  | mode => simpa [isEnum, kindRule, ruleMode] using ruleEnum_eq .mode c es i b
  | led => simpa [isEnum, kindRule, ruleLed] using ruleEnum_eq .led c es i b
  | assign => simpa [isEnum, kindRule, ruleAssign] using ruleEnum_eq .assign c es i b
  | behav => simpa [isEnum, kindRule, ruleBehav] using ruleEnum_eq .behav c es i b
  | rsvd => by_cases hb : b = 0 <;> simp [kindRule, ruleRsvd, isEnum, hb]

/-- A reserved cell is not a cell of an enumeration. -/
theorem not_unrecognised_of_reservedNonzero {c : Config} {i : Nat} {b : Byte} (h : ReservedNonzero c i b) :
    ¬ Unrecognised c i b := by
  rintro ⟨henum, _⟩
  rw [h.1] at henum
  cases henum

/-- The two clauses of `RaisesAt` are the two raises of the rule: no cell is both reserved and unrecognised. -/
theorem kindRule_eq_error_iff (c : Config) (es : Bool) (i : Nat) (b : Byte) (e : Err) :
    kindRule (kindAt c i) c es i b = .error e ↔ RaisesAt c es i b e := by
  have hexcl := @not_unrecognised_of_reservedNonzero c i b
  rw [kindRule_kindAt]
  unfold RaisesAt
  split_ifs <;> grind

/-- A cell that is not rejected is passed, with whether its byte is unrecognised. -/
theorem kindRule_eq_ok_iff (c : Config) (es : Bool) (i : Nat) (b : Byte) (u : Bool) :
    kindRule (kindAt c i) c es i b = .ok u ↔ ¬ Rejected c es i b ∧ u = decide (Unrecognised c i b) := by
  rw [kindRule_kindAt]
  unfold Rejected
  split_ifs <;> grind

/-! ## The walk, cell by cell -/

/-- A walk of two parts: the second is walked if the first does not raise. -/
theorem recWalkFrom_append (c : Config) (es : Bool) (np : Nat) (w : Option Nat) (xs ys : List Byte) :
    recWalkFrom c es np w (xs ++ ys) =
      (recWalkFrom c es np w xs).bind fun w' => recWalkFrom c es (np + xs.length) w' ys := by
  induction xs generalizing np w with
  | nil => rfl
  | cons x xs ih =>
    rw [List.cons_append, recWalkFrom_cons, recWalkFrom_cons]
    cases kindRule (kindAt c np) c es np x with
    | error e => rfl
    | ok u => simp [ih, Nat.add_assoc, Nat.add_comm 1]

/-- The walk of one cell more. -/
theorem recWalk_range_succ (c : Config) (es : Bool) (byte : Nat → Byte) (n : Nat) :
    recWalk c es ((List.range (n + 1)).map byte) =
      (recWalk c es ((List.range n).map byte)).bind fun w =>
        (kindRule (kindAt c n) c es n (byte n)).map (noteWarn w n) := by
  unfold recWalk
  rw [List.range_succ, List.map_append, recWalkFrom_append]
  congr 1
  funext w
  simp only [List.map_cons, List.map_nil, List.length_map, List.length_range, Nat.zero_add, recWalkFrom_cons]
  cases kindRule (kindAt c n) c es n (byte n) <;> rfl

/-- A walk of one cell more completes if the walk and the rule of that cell do. -/
theorem recWalk_range_succ_eq_ok_iff (c : Config) (es : Bool) (byte : Nat → Byte) (n : Nat) (w : Option Nat) :
    recWalk c es ((List.range (n + 1)).map byte) = .ok w ↔
      ∃ v u, recWalk c es ((List.range n).map byte) = .ok v ∧ kindRule (kindAt c n) c es n (byte n) = .ok u ∧
        noteWarn v n u = w := by
  rw [recWalk_range_succ]
  cases recWalk c es ((List.range n).map byte) with
  | error e => simp [Except.bind]
  | ok v => cases kindRule (kindAt c n) c es n (byte n) <;> simp [Except.bind, Except.map]

/-- A walk of one cell more raises if the walk raises, or completes and the rule of that cell raises. -/
theorem recWalk_range_succ_eq_error_iff (c : Config) (es : Bool) (byte : Nat → Byte) (n : Nat) (e : Err) :
    recWalk c es ((List.range (n + 1)).map byte) = .error e ↔
      recWalk c es ((List.range n).map byte) = .error e ∨
      ∃ v, recWalk c es ((List.range n).map byte) = .ok v ∧ kindRule (kindAt c n) c es n (byte n) = .error e := by
  rw [recWalk_range_succ]
  cases recWalk c es ((List.range n).map byte) with
  | error e => simp [Except.bind]
  | ok v => cases kindRule (kindAt c n) c es n (byte n) <;> simp [Except.bind, Except.map]

/-- The lowest of the first `n` offsets whose byte is unrecognised. -/
def firstUnrecognised (c : Config) (byte : Nat → Byte) (n : Nat) : Option Nat :=
  (List.range n).find? fun i => decide (Unrecognised c i (byte i))

/-- `FirstUnrecognised` has one answer. -/
theorem firstUnrecognised_iff (c : Config) (byte : Nat → Byte) (n : Nat) (w : Option Nat) :
    FirstUnrecognised c byte n w ↔ firstUnrecognised c byte n = w := by
  unfold FirstUnrecognised firstUnrecognised
  cases w with
  | none =>
    rw [List.find?_range_eq_none]
    simp only [forall_const, reduceCtorEq, false_imp_iff, and_true, Bool.not_eq_true', decide_eq_false_iff_not]
  | some i =>
    rw [List.find?_range_eq_some]
    simp only [decide_eq_true_eq, Option.some.injEq, forall_eq', reduceCtorEq, false_imp_iff, true_and,
      Bool.not_eq_true', decide_eq_false_iff_not, List.mem_range]
    tauto

/-- One cell more is noted as the warning if no lower cell was. -/
theorem firstUnrecognised_succ (c : Config) (byte : Nat → Byte) (n : Nat) :
    firstUnrecognised c byte (n + 1) =
      noteWarn (firstUnrecognised c byte n) n (decide (Unrecognised c n (byte n))) := by
  unfold firstUnrecognised
  rw [List.range_succ, List.find?_append]
  cases (List.range n).find? fun i => decide (Unrecognised c i (byte i)) with
  | some i => simp
  | none => cases h : decide (Unrecognised c n (byte n)) <;> simp only [List.find?_cons, h] <;> rfl

/-- The walk completes exactly when it raises at no cell, with the lowest unrecognised offset. -/
theorem recWalk_eq_ok_iff (c : Config) (es : Bool) (byte : Nat → Byte) (n : Nat) (w : Option Nat) :
    recWalk c es ((List.range n).map byte) = .ok w ↔
      (∀ i < n, ¬ Rejected c es i (byte i)) ∧ firstUnrecognised c byte n = w := by
  induction n generalizing w with
  | zero => simp [recWalk, firstUnrecognised]
  | succ n ih =>
    simp only [recWalk_range_succ_eq_ok_iff, kindRule_eq_ok_iff, firstUnrecognised_succ, Nat.forall_lt_succ_right, ih]
    constructor
    · rintro ⟨_, _, ⟨hlow, rfl⟩, ⟨hn, rfl⟩, hw⟩
      exact ⟨⟨hlow, hn⟩, hw⟩
    · rintro ⟨⟨hlow, hn⟩, hw⟩
      exact ⟨_, _, ⟨hlow, rfl⟩, ⟨hn, rfl⟩, hw⟩

/-- The walk raises what the lowest rejected cell raises. -/
theorem recWalk_eq_error_iff (c : Config) (es : Bool) (byte : Nat → Byte) (n : Nat) (e : Err) :
    recWalk c es ((List.range n).map byte) = .error e ↔
      ∃ i < n, RaisesAt c es i (byte i) e ∧ ∀ j < i, ¬ Rejected c es j (byte j) := by
  induction n with
  | zero => simp [recWalk]
  | succ n ih =>
    simp only [recWalk_range_succ_eq_error_iff, recWalk_eq_ok_iff, kindRule_eq_error_iff, Nat.exists_lt_succ_right, ih]
    refine or_congr Iff.rfl ⟨?_, ?_⟩
    · rintro ⟨_, ⟨hlow, _⟩, hn⟩
      exact ⟨hn, hlow⟩
    · rintro ⟨hn, hlow⟩
      exact ⟨_, ⟨hlow, rfl⟩, hn⟩

/-- Settles O28: the walk of `n` cells, at the 339 offsets of the record. -/
theorem walkFirstFailureWins : Obligations.WalkFirstFailureWins := by
  intro c es bs hlen
  have hbytes : (List.range natLen).map (fun i => bs.getD i 0) = bs := by
    apply List.ext_getElem <;> simp +contextual [hlen]
  constructor
  · intro e
    rw [← recWalk_eq_error_iff, hbytes]
  · intro w
    rw [firstUnrecognised_iff, ← recWalk_eq_ok_iff, hbytes]

end Sys2Proof.Machine
end

section
/-! PROOFS. The decoder of frames: the payload that unpacks to the record, and where `FDEC` raises (43_frame.md R161,
R163). -/

namespace Sys2Proof.Machine

/-! ## A body that raises -/

/-- The prologue and the error entry leave what 60_exceptions.md R210 says. -/
theorem State.dataCommand_failed (body : State → Except Err Commit) (s : State) (e : Err)
    (h : body s.prologue = .error e) :
    s.Failed (s.dataCommand body) (errCode e.kind) (stageCode e.stage) e.off e.exp e.act := by
  rw [State.dataCommand_of_error body s e h]
  simp [State.Failed, State.Kept, stateErr]

/-- `FDEC` with a body that raises ends in the error entry; the body reads nothing that the prologue clears. -/
theorem exec_fdec_failed (s : State) (e : Err) (h : bodyFdec s = .error e) :
    ∃ t, exec .fdec s = .next t ∧ s.Failed t (errCode e.kind) (stageCode e.stage) e.off e.exp e.act :=
  ⟨_, rfl, State.dataCommand_failed bodyFdec s e h⟩

/-- A data command leaves `ERRCODE` and `ERRSTAGE` at 0, or at the codes of the error that its body raises. -/
theorem State.dataCommand_errRegs (body : State → Except Err Commit) (s : State) :
    ((s.dataCommand body).errcode = 0 ∧ (s.dataCommand body).errstage = 0) ∨
    ∃ e, body s.prologue = .error e ∧
      (s.dataCommand body).errcode = errCode e.kind ∧ (s.dataCommand body).errstage = stageCode e.stage := by
  rcases State.dataCommand_cases body s with ⟨w, -, ht⟩ | ⟨e, he, ht⟩
  · exact .inl (by rw [ht]; exact ⟨rfl, rfl⟩)
  · exact .inr ⟨e, he, by rw [ht]; exact ⟨rfl, rfl⟩⟩

/-- No other error than `ShapeError` has code 1 (60_exceptions.md R201). -/
theorem errCode_eq_one_iff (k : ErrKind) : errCode k = 1 ↔ k = .shape := by cases k <;> decide

/-- No other stage than PACKED has code 2 (60_exceptions.md R202). -/
theorem stageCode_eq_two_iff (g : Stage) : stageCode g = 2 ↔ g = .packed := by cases g <;> decide

/-- No other stage than NATURAL has code 3 (60_exceptions.md R202). -/
theorem stageCode_eq_three_iff (g : Stage) : stageCode g = 3 ↔ g = .natural := by cases g <;> decide

/-! ## The header check -/

/-- The header check passes when every byte matches its entry (43_frame.md R161 step 2). -/
theorem headerCheckFrom_eq_none_iff (k : Nat) (es : List HdrEntry) (hs : List Byte) :
    headerCheckFrom k es hs = none ↔
      ∀ (i : Nat) (e : HdrEntry) (b : Byte), es[i]? = some e → hs[i]? = some b → b &&& e.mask = e.value := by
  induction es generalizing k hs with
  | nil => simp [headerCheckFrom]
  | cons e es ih =>
    cases hs with
    | nil => simp [headerCheckFrom]
    | cons b hs =>
      rw [headerCheckFrom]
      split
      next hm =>
        rw [ih]
        refine ⟨fun h i => ?_, fun h i => h (i + 1)⟩
        cases i with
        | zero => rintro _ _ ⟨⟩ ⟨⟩; exact hm
        | succ i => exact h i
      next hm => exact ⟨nofun, fun h => absurd (h 0 e b rfl rfl) hm⟩

/-- The header check raises at the first byte that does not match its entry (43_frame.md R161 step 2). -/
theorem headerCheckFrom_eq_some (k i : Nat) (es : List HdrEntry) (hs : List Byte) (e : HdrEntry) (b : Byte)
    (he : es[i]? = some e) (hb : hs[i]? = some b)
    (hlow : ∀ j < i, ∀ (e : HdrEntry) (b : Byte), es[j]? = some e → hs[j]? = some b → b &&& e.mask = e.value)
    (hne : b &&& e.mask ≠ e.value) : headerCheckFrom k es hs = some (headerErr (k + i) e.value b) := by
  match es, hs, i with
  | e₀ :: es, b₀ :: hs, 0 =>
    cases he
    cases hb
    rw [headerCheckFrom, if_neg hne, Nat.add_zero]
  | e₀ :: es, b₀ :: hs, i + 1 =>
    have hrest := headerCheckFrom_eq_some (k + 1) i es hs e b he hb (fun j hj => hlow (j + 1) (by omega)) hne
    rw [headerCheckFrom, if_pos (hlow 0 (by omega) e₀ b₀ rfl rfl), hrest, Nat.add_right_comm, Nat.add_assoc]

/-- The header check raises no other error than a mismatch. -/
theorem exists_headerErr_of_headerCheckFrom (k : Nat) (es : List HdrEntry) (hs : List Byte) (err : Err)
    (h : headerCheckFrom k es hs = some err) : ∃ i v b, err = headerErr i v b := by
  induction es generalizing k hs with
  | nil => cases h
  | cons e es ih =>
    cases hs with
    | nil => cases h
    | cons b hs =>
      rw [headerCheckFrom] at h
      split at h
      · exact ih (k + 1) hs h
      · cases h
        exact ⟨_, _, _, rfl⟩

/-- The entries and the bytes that the header check meets are those of the twelve indices. -/
theorem eq_of_headerEntry {c : Config} {h : Vector Byte 12} {byte : Nat → Byte}
    (hbyte : ∀ i : Fin 12, h[i] = byte i.val) {j : Nat} {e : HdrEntry} {b : Byte}
    (he : c.hdrConst.toList[j]? = some e) (hb : h.toList[j]? = some b) :
    ∃ i : Fin 12, i.val = j ∧ c.hdrConst[i] = e ∧ byte i.val = b := by
  simp only [Vector.getElem?_toList, Vector.getElem?_eq_some_iff] at he hb
  obtain ⟨hj, rfl⟩ := he
  obtain ⟨_, rfl⟩ := hb
  exact ⟨⟨j, hj⟩, rfl, rfl, (hbyte ⟨j, hj⟩).symm⟩

/-- The header check by index: it passes when the twelve bytes match. -/
theorem headerCheck_eq_none_iff {c : Config} {h : Vector Byte 12} {byte : Nat → Byte}
    (hbyte : ∀ i : Fin 12, h[i] = byte i.val) :
    headerCheck c h = none ↔ ∀ i : Fin 12, HeaderMatches c byte i := by
  rw [headerCheck, headerCheckFrom_eq_none_iff]
  constructor
  · intro hall i
    exact hall i.val c.hdrConst[i] (byte i.val) (by simp) (by simp [← hbyte])
  · intro hall j e b he hb
    obtain ⟨i, -, rfl, rfl⟩ := eq_of_headerEntry hbyte he hb
    exact hall i

/-- The header check by index: it raises at the lowest byte that does not match. -/
theorem headerCheck_eq_some {c : Config} {h : Vector Byte 12} {byte : Nat → Byte}
    (hbyte : ∀ i : Fin 12, h[i] = byte i.val) (i : Fin 12) (hlow : ∀ j < i, HeaderMatches c byte j)
    (hne : ¬ HeaderMatches c byte i) :
    headerCheck c h = some (headerErr i.val c.hdrConst[i].value (byte i.val)) := by
  have hcheck := headerCheckFrom_eq_some 0 i.val c.hdrConst.toList h.toList c.hdrConst[i] (byte i.val) (by simp)
    (by simp [← hbyte])
    (fun j hj e b he hb => by
      obtain ⟨i', rfl, rfl, rfl⟩ := eq_of_headerEntry hbyte he hb
      exact hlow i' hj) hne
  rwa [Nat.zero_add] at hcheck

/-! ## The frame check -/

/-- The header registers that `FDEC` stages are the frame's first bytes. -/
theorem headerOf_getElem (raw : List Byte) (i : Fin 12) : (headerOf raw)[i] = raw.getD i.val 0 := by
  simp [headerOf]

/-- The length is checked first (43_frame.md R161 step 1). -/
theorem frameCheck_of_length_ne {c : Config} {raw : List Byte} {l : Word} (h : l.toNat ≠ frameLen) :
    frameCheck c raw l = some (shapeErr .frame frameLen l) := if_pos h

/-- The header is checked next (43_frame.md R161 step 2). -/
theorem frameCheck_of_header_error {c : Config} {raw : List Byte} {l : Word} {e : Err} (hl : l.toNat = frameLen)
    (h : headerCheck c (headerOf raw) = some e) : frameCheck c raw l = some e := by
  rw [frameCheck, if_neg (not_not.mpr hl), h]

/-- The marker and the terminator are checked last (43_frame.md R161 steps 3 and 4). -/
theorem frameCheck_of_header_ok {c : Config} {raw : List Byte} {l : Word} (hl : l.toNat = frameLen)
    (h : headerCheck c (headerOf raw) = none) :
    frameCheck c raw l =
      if raw.getD markOff 0 ≠ fmtMark then some (headerErr markOff fmtMark (raw.getD markOff 0))
      else if raw.getD termOff 0 ≠ term then some (headerErr termOff term (raw.getD termOff 0))
      else none := by
  rw [frameCheck, if_neg (not_not.mpr hl), h]

/-- The frame check raises `ShapeError` of stage FRAME, or a header mismatch. -/
theorem frameCheck_error_cases {c : Config} {raw : List Byte} {l : Word} {e : Err} (h : frameCheck c raw l = some e) :
    e = shapeErr .frame frameLen l ∨ ∃ i v b, e = headerErr i v b := by
  by_cases hl : l.toNat = frameLen
  · right
    cases hh : headerCheck c (headerOf raw) with
    | some e' =>
      rw [frameCheck_of_header_error hl hh] at h
      cases h
      exact exists_headerErr_of_headerCheckFrom _ _ _ _ hh
    | none =>
      rw [frameCheck_of_header_ok hl hh] at h
      split at h
      · cases h
        exact ⟨_, _, _, rfl⟩
      · split at h
        · cases h
          exact ⟨_, _, _, rfl⟩
        · cases h
  · rw [frameCheck_of_length_ne hl] at h
    cases h
    exact .inl rfl

/-- A frame that passes has 402 bytes. -/
theorem length_eq_of_frameCheck_eq_none {c : Config} {raw : List Byte} {l : Word} (h : frameCheck c raw l = none) :
    l.toNat = frameLen := by
  by_contra hl
  rw [frameCheck_of_length_ne hl] at h
  cases h

/-! ## The payload -/

/-- The payload of a frame has 388 bytes (30_encoding.md R80). -/
theorem payload_length {raw : List Byte} (h : raw.length = frameLen) : (payload raw).length = packedLen := by
  rw [payload, slice, List.length_take, List.length_drop, h]
  rfl

/-- The payload of a frame unpacks to 339 bytes (43_frame.md R163). -/
theorem unpack_payload_length {raw : List Byte} (h : raw.length = frameLen) :
    (unpack (payload raw)).length = natLen := by
  rw [unpack_length, payload_length h]
  rfl

/-- A payload byte stands 13 bytes further on in the frame (30_encoding.md R80). -/
theorem payload_getD (raw : List Byte) {p : Nat} (h : p < packedLen) :
    (payload raw).getD p 0 = raw.getD (payOff + p) 0 := by
  have h' : p < payOff + packedLen - payOff := by simpa using h
  simp only [payload, slice, List.getD_eq_getElem?_getD, List.getElem?_take_of_lt h', List.getElem?_drop]

/-- The data byte of a natural offset and its chunk's bitmap stand in the payload (30_encoding.md R81). -/
theorem packed_offsets_lt {j : Nat} (h : j < natLen) :
    (packedHighBit j).1 < packedLen ∧ packedDataOffset j < packedLen := by
  have hdata : packedDataOffset j < packedLen := (packedDataOffset_lt_iff j packedLen).mpr h
  exact ⟨(packedHighBit_lt_packedDataOffset j).trans hdata, hdata⟩

/-- The payload stands inside the frame (30_encoding.md R80). -/
theorem payOff_add_lt {p : Nat} (h : p < packedLen) : payOff + p < frameLen := by
  unfold packedLen at h
  unfold payOff frameLen
  omega

/-- `frameNatural` is the natural byte at the frame offsets of the offset map (30_encoding.md R81, R92). -/
theorem frameNatural_eq (byte : Nat → Byte) (j : Nat) :
    frameNatural byte j =
      naturalByte (byte (payOff + (packedHighBit j).1)) (packedHighBit j).2 (byte (payOff + packedDataOffset j)) := by
  have hoff : 14 + 8 * (j / 7) + j % 7 = payOff + packedDataOffset j := by
    unfold payOff packedDataOffset; omega
  rw [frameNatural, hoff]
  rfl

/-- `frameNatural` looks at the bytes of the frame only. -/
theorem frameNatural_congr {f g : Nat → Byte} (h : ∀ i < frameLen, f i = g i) {j : Nat} (hj : j < natLen) :
    frameNatural f j = frameNatural g j := by
  obtain ⟨hbit, hdata⟩ := packed_offsets_lt hj
  rw [frameNatural_eq, frameNatural_eq, h _ (payOff_add_lt hbit), h _ (payOff_add_lt hdata)]

/-- Every byte of the unpacked payload, by the offset map (43_frame.md R163). -/
theorem unpack_payload_getD {raw : List Byte} (h : raw.length = frameLen) {j : Nat} (hj : j < natLen) :
    (unpack (payload raw)).getD j 0 = frameNatural (fun i => raw.getD i 0) j := by
  obtain ⟨hbit, hdata⟩ := packed_offsets_lt hj
  rw [unpack_getD _ _ (by rwa [unpack_payload_length h]), payload_getD raw hbit, payload_getD raw hdata,
    frameNatural_eq]

/-- A sequence is its bytes by index. -/
theorem map_range_getD (bs : List Byte) : (List.range bs.length).map (fun i => bs.getD i 0) = bs := by
  apply List.ext_getElem <;> simp +contextual

/-- The unpacked payload of the input, as the walk meets it. -/
theorem unpack_payload_input {s : State} (h : s.ilen.toNat = frameLen) :
    unpack (payload s.input) = (List.range natLen).map (frameNatural s.ibuf.read) := by
  have hlen : s.input.length = frameLen := by rw [State.input_length, h]
  rw [← map_range_getD (unpack (payload s.input)), unpack_payload_length hlen]
  refine List.map_congr_left fun j hj => ?_
  have hj' := List.mem_range.mp hj
  rw [unpack_payload_getD hlen hj']
  exact frameNatural_congr (fun i hi => State.input_getD s i (h ▸ hi)) hj'

/-! ## Where the body of FDEC raises -/

/-- The two inner shape tests never fire: the body raises in the frame check, or in the walk (43_frame.md R163). -/
theorem bodyFdec_eq_error_iff (s : State) (e : Err) :
    bodyFdec s = .error e ↔
      frameCheck s.config s.input s.ilen = some e ∨
      (frameCheck s.config s.input s.ilen = none ∧
        recWalk s.config s.es ((List.range natLen).map (frameNatural s.ibuf.read)) = .error e) := by
  unfold bodyFdec
  cases hf : frameCheck s.config s.input s.ilen with
  | some e' => simp
  | none =>
    have hl := length_eq_of_frameCheck_eq_none hf
    have hlen : s.input.length = frameLen := by rw [State.input_length, hl]
    simp only [payload_length hlen, unpack_payload_length hlen, ← unpack_payload_input hl]
    cases recWalk s.config s.es (unpack (payload s.input)) <;> simp

/-! ## The stages of the errors -/

/-- A walk raises in stage NATURAL, and no `ShapeError` (42_record.md R142). -/
theorem recWalk_error_stage {c : Config} {es : Bool} {bs : List Byte} {e : Err} (h : recWalk c es bs = .error e) :
    e.kind ≠ .shape ∧ e.stage = .natural := by
  rw [← map_range_getD bs, recWalk_eq_error_iff] at h
  obtain ⟨i, -, ⟨-, rfl⟩ | ⟨-, -, rfl⟩, -⟩ := h <;> exact ⟨nofun, rfl⟩

/-- A header mismatch is raised in stage FRAME (60_exceptions.md R204). -/
theorem headerCheck_error_stage {c : Config} {h : Vector Byte 12} {e : Err} (he : headerCheck c h = some e) :
    e.stage = .frame := by
  obtain ⟨_, _, _, rfl⟩ := exists_headerErr_of_headerCheckFrom _ _ _ _ he
  rfl

/-- The frame check raises in stage FRAME (43_frame.md R161). -/
theorem frameCheck_error_stage {c : Config} {raw : List Byte} {l : Word} {e : Err} (h : frameCheck c raw l = some e) :
    e.stage = .frame := by
  obtain rfl | ⟨_, _, _, rfl⟩ := frameCheck_error_cases h <;> rfl

/-- A `ShapeError` of `FDEC` is one of stage FRAME (43_frame.md R163). -/
theorem bodyFdec_error_stage {s : State} {e : Err} (h : bodyFdec s = .error e) :
    e.stage = .frame ∨ (e.kind ≠ .shape ∧ e.stage = .natural) := by
  rcases (bodyFdec_eq_error_iff s e).mp h with hf | ⟨-, hw⟩
  · exact .inl (frameCheck_error_stage hf)
  · exact .inr (recWalk_error_stage hw)

/-- The capacity check raises in stage CAPACITY (60_exceptions.md R203). -/
theorem capacityCheck_error_stage {s : State} {e : Err} (h : capacityCheck s = some e) : e.stage = .capacity := by
  unfold capacityCheck at h
  split at h
  · cases h
    rfl
  · cases h

/-- The bodies of `UNPK` and `PACK` raise in the capacity check only (40_unpack.md R110, 41_pack.md R120). -/
theorem bodyLine_error_stage {s : State} {e : Err} (h : bodyUnpk s = .error e ∨ bodyPack s = .error e) :
    e.stage = .capacity := by
  unfold bodyUnpk bodyPack at h
  cases hc : capacityCheck s with
  | none => simp [hc] at h
  | some e' =>
    simp only [hc, Except.error.injEq, or_self] at h
    exact capacityCheck_error_stage (h ▸ hc)

/-- The body of `RDEC` raises in stage NATURAL only (42_record.md R140). -/
theorem bodyRdec_error_stage {s : State} {e : Err} (h : bodyRdec s = .error e) : e.stage = .natural := by
  unfold bodyRdec at h
  split at h
  next => cases h; rfl
  next =>
    split at h
    next e' hw => cases h; exact (recWalk_error_stage hw).2
    next => cases h

/-- The body of `RENC` raises in stage NATURAL only (42_record.md R150). -/
theorem bodyRenc_error_stage {s : State} {e : Err} (h : bodyRenc s = .error e) : e.stage = .natural := by
  unfold bodyRenc at h
  split at h
  next e' hw => cases h; exact (recWalk_error_stage hw).2
  next => cases h

/-- The body of `FENC` raises in stage FRAME or NATURAL (43_frame.md R170). -/
theorem bodyFenc_error_stage {s : State} {e : Err} (h : bodyFenc s = .error e) :
    e.stage = .frame ∨ e.stage = .natural := by
  unfold bodyFenc at h
  split at h
  next e' hh => cases h; exact .inl (headerCheck_error_stage hh)
  next =>
    split at h
    next e' hw => cases h; exact .inr (recWalk_error_stage hw).2
    next => cases h

/-- An encode command raises what its body raises, or `IllegalCommand` without a stage (44_control.md R190). -/
theorem encodeBody_error_stage {w : Word} {body : State → Except Err Commit} {s : State} {e : Err}
    (h : encodeBody w body s = .error e) : body s = .error e ∨ e.stage = .none := by
  unfold encodeBody at h
  split at h
  · exact .inl h
  · cases h
    exact .inr rfl

/-- No command raises in stage PACKED (43_frame.md R163). -/
theorem passBody_error_stage_ne_packed {cmd : PassCmd} {s : State} {e : Err} (h : passBody cmd s = .error e) :
    e.stage ≠ .packed := by
  cases cmd with
  | unpk => simp [bodyLine_error_stage (.inl h)]
  | rdec => simp [bodyRdec_error_stage h]
  | fdec => rcases bodyFdec_error_stage h with hs | ⟨-, hs⟩ <;> simp [hs]
  | pack =>
    rcases encodeBody_error_stage h with h | hs
    · simp [bodyLine_error_stage (.inr h)]
    · simp [hs]
  | renc =>
    rcases encodeBody_error_stage h with h | hs
    · simp [bodyRenc_error_stage h]
    · simp [hs]
  | fenc =>
    rcases encodeBody_error_stage h with h | hs
    · rcases bodyFenc_error_stage h with hs | hs <;> simp [hs]
    · simp [hs]

/-! ## R163 -/

/-- `FDEC` ends in no `ShapeError` of stage PACKED or NATURAL (43_frame.md R163). -/
theorem exec_fdec_not_inner_shape {s t : State} (h : exec .fdec s = .next t) :
    ¬ (t.errcode = 1 ∧ (t.errstage = 2 ∨ t.errstage = 3)) := by
  cases h
  rintro ⟨hcode, hstage⟩
  rcases State.dataCommand_errRegs bodyFdec s with ⟨h0, -⟩ | ⟨e, he, hc, hs⟩
  · rw [h0] at hcode
    cases hcode
  · rw [hc, errCode_eq_one_iff] at hcode
    rw [hs, stageCode_eq_two_iff, stageCode_eq_three_iff] at hstage
    rcases bodyFdec_error_stage he with hframe | ⟨hkind, -⟩
    · simp [hframe] at hstage
    · exact hkind hcode

/-- No data command ends with stage PACKED (43_frame.md R163). -/
theorem exec_dataCommand_errstage_ne_packed {i : Instr} {s t : State} (hi : isDataCommand i = true)
    (h : exec i s = .next t) : t.errstage ≠ 2 := by
  obtain ⟨cmd, rfl⟩ := eq_passInstr_of_isDataCommand i hi
  rw [exec_passInstr] at h
  cases h
  rcases State.dataCommand_errRegs (passBody cmd) s with ⟨-, h0⟩ | ⟨e, he, -, hs⟩
  · rw [h0]
    decide
  · rw [hs]
    exact fun h2 => passBody_error_stage_ne_packed he ((stageCode_eq_two_iff _).mp h2)

/-- `RDEC` of another length than 339 ends in `ShapeError` of stage NATURAL (42_record.md R140). -/
theorem exec_rdec_failed_of_length_ne {s : State} (h : s.ilen.toNat ≠ natLen) :
    ∃ t, exec .rdec s = .next t ∧ s.Failed t 1 3 0 339 s.ilen :=
  ⟨_, rfl, State.dataCommand_failed bodyRdec s (shapeErr .natural natLen s.ilen) (if_pos h)⟩

/-- Settles O37: the offset map of the payload, the two raises that cannot happen, and the one that can. -/
theorem framePayloadUnpacks : Obligations.FramePayloadUnpacks := by
  refine ⟨fun raw h => ⟨payload_length h, unpack_payload_length h, fun j hj => unpack_payload_getD h hj⟩,
    fun s t h => exec_fdec_not_inner_shape h, fun i s t hi h => exec_dataCommand_errstage_ne_packed hi h,
    fun s h => ?_⟩
  obtain ⟨t, ht, hcode, hstage, -⟩ := exec_rdec_failed_of_length_ne h
  exact ⟨t, ht, hcode, hstage⟩

/-! ## R161 -/

/-- The header bytes that `FDEC` checks are the first cells of `IBUF`. -/
theorem headerOf_input {s : State} (h : s.ilen.toNat = frameLen) (i : Fin 12) :
    (headerOf s.input)[i] = s.ibuf.read i.val := by
  rw [headerOf_getElem]
  exact State.input_getD s i.val (by rw [h]; unfold frameLen; omega)

/-- The frame check of an input of the right length whose header matches: the marker, then the terminator. -/
theorem frameCheck_input {s : State} (h : s.ilen.toNat = frameLen)
    (hhdr : ∀ i : Fin 12, HeaderMatches s.config s.ibuf.read i) :
    frameCheck s.config s.input s.ilen =
      if s.ibuf.read 12 ≠ 0x40 then some (headerErr 12 0x40 (s.ibuf.read 12))
      else if s.ibuf.read 401 ≠ 0xF7 then some (headerErr 401 0xF7 (s.ibuf.read 401))
      else none := by
  rw [frameCheck_of_header_ok h ((headerCheck_eq_none_iff (headerOf_input h)).mpr hhdr),
    State.input_getD s markOff (by rw [h]; decide), State.input_getD s termOff (by rw [h]; decide)]

/-- `FDEC` raises what the frame check raises. -/
theorem exec_fdec_failed_of_frameCheck {s : State} {e : Err} (h : frameCheck s.config s.input s.ilen = some e) :
    ∃ t, exec .fdec s = .next t ∧ s.Failed t (errCode e.kind) (stageCode e.stage) e.off e.exp e.act :=
  exec_fdec_failed s e ((bodyFdec_eq_error_iff s e).mpr (.inl h))

/-- Behind a frame check that passes, `FDEC` raises what the lowest rejected natural offset raises (43_frame.md
section 2). -/
theorem exec_fdec_failed_of_raisesAt {s : State} {e : Err} (hf : frameCheck s.config s.input s.ilen = none) {i : Nat}
    (hi : i < natLen) (hlow : ∀ j < i, ¬ Rejected s.config s.es j (frameNatural s.ibuf.read j))
    (h : RaisesAt s.config s.es i (frameNatural s.ibuf.read i) e) :
    ∃ t, exec .fdec s = .next t ∧ s.Failed t (errCode e.kind) (stageCode e.stage) e.off e.exp e.act :=
  exec_fdec_failed s e
    ((bodyFdec_eq_error_iff s e).mpr (.inr ⟨hf, (recWalk_eq_error_iff _ _ _ _ _).mpr ⟨i, hi, h, hlow⟩⟩))

/-- Settles O39: the frame check in its order, then the lowest rejected cell of the walk. -/
theorem fdecRaises : Obligations.FdecRaises := by
  intro s
  refine ⟨fun hl => exec_fdec_failed_of_frameCheck (frameCheck_of_length_ne hl), fun hl i hlow hne => ?header,
    fun hl hhdr => ?_⟩
  case header =>
    exact exec_fdec_failed_of_frameCheck
      (frameCheck_of_header_error hl (headerCheck_eq_some (headerOf_input hl) i hlow hne))
  have hcheck := frameCheck_input hl hhdr
  refine ⟨fun hmark => ?marker, fun hmark hterm => ?terminator, fun hmark hterm i hi hlow => ?record⟩
  case marker =>
    rw [if_pos hmark] at hcheck
    exact exec_fdec_failed_of_frameCheck hcheck
  case terminator =>
    rw [if_neg (not_not.mpr hmark), if_pos hterm] at hcheck
    exact exec_fdec_failed_of_frameCheck hcheck
  case record =>
    rw [if_neg (not_not.mpr hmark), if_neg (not_not.mpr hterm)] at hcheck
    exact ⟨fun hrsvd => exec_fdec_failed_of_raisesAt hcheck hi hlow (.inl ⟨hrsvd, rfl⟩),
      fun hes hunrec => exec_fdec_failed_of_raisesAt hcheck hi hlow (.inr ⟨hes, hunrec, rfl⟩)⟩

end Sys2Proof.Machine
end

section
/-! PROOFS. The control events: `NOP`, an illegal command word, and the host's reads and writes of the registers and of
the output (44_control.md R181 to R184, R187). -/

namespace Sys2Proof.Machine

/-! ## The event of each access -/

/-- A legal command word runs its instruction. -/
theorem step_cmd (s : State) (w : Word) (rest : List HostEvent) (i : Instr) (hw : s.work = none)
    (he : s.events = .wr 0x000 w :: rest) (hi : decode (.cmd w) = .ok i) : step s = exec i (s.take rest) := by
  rw [step_event s _ rest hw he, fetchEvent_cmd w _ i hi]

/-- A read makes the bus access. -/
theorem step_rd (s : State) (a : Addr) (rest : List HostEvent) (hw : s.work = none) (he : s.events = .rd a :: rest) :
    step s = (s.take rest).busRead a := by
  rw [step_event s _ rest hw he, fetchEvent_rd]

/-- A write makes the bus access, unless its location is one of the two ports. -/
theorem step_wr (s : State) (a : Addr) (d : Word) (rest : List HostEvent) (l : Loc) (hw : s.work = none)
    (he : s.events = .wr a d :: rest) (hl : locate s.config a = l) (hcmd : l ≠ .cmd) (hdin : l ≠ .din) :
    step s = (s.take rest).busWrite a d := by
  have h0 : a ≠ 0x000 := by
    rintro rfl
    exact hcmd hl.symm
  have h3 : a ≠ 0x003 := by
    rintro rfl
    exact hdin hl.symm
  rw [step_event s _ rest hw he, fetchEvent_write a d _ h0 h3]

/-! ## NOP -/

/-- Settles O7: word 0 is `NOP`'s row, and its meaning is the identity. -/
theorem nopChangesNothing : Obligations.NopChangesNothing :=
  ⟨rfl, fun _ => rfl⟩

/-! ## An illegal command word -/

/-- The words that name a command are those below 8 (30_encoding.md R90). -/
theorem toNat_lt_of_decode_cmd (w : Word) (i : Instr) (h : decode (.cmd w) = .ok i) : w.toNat < 8 := by
  change decodeCmd w = .ok i at h
  unfold decodeCmd at h
  split at h
  next => cases h
  next hhigh =>
    have hzero : (w.extractLsb' 4 12).toNat = 0 := congrArg BitVec.toNat (not_not.mp hhigh)
    have hlow : w.toNat = (w.extractLsb' 0 4).toNat := by
      simp only [BitVec.extractLsb'_toNat, Nat.shiftRight_eq_div_pow] at hzero ⊢
      omega
    rw [hlow]
    split at h <;> cases h <;> omega

/-- Without the encode path the three encode commands take the error of an illegal command (44_control.md R190). -/
theorem exec_encode_of_not_hasEnc (s : State) (h : s.config.hasEnc = false) :
    exec .pack s = .next (s.illegalCommand 0x0003) ∧ exec .renc s = .next (s.illegalCommand 0x0005) ∧
    exec .fenc s = .next (s.illegalCommand 0x0007) := by
  have hno : ¬ s.config.hasEnc = true := by simp [h]
  exact ⟨if_neg hno, if_neg hno, if_neg hno⟩

/-- A word that names no command of the block takes the error `IllegalCommand`: the decoder rejects it, or its meaning
does. -/
theorem step_illegal (s : State) (w : Word) (rest : List HostEvent) (hw : s.work = none)
    (he : s.events = .wr 0x000 w :: rest)
    (h : 8 ≤ w.toNat ∨ (s.config.hasEnc = false ∧ (w = 0x0003 ∨ w = 0x0005 ∨ w = 0x0007))) :
    step s = .next ((s.take rest).illegalCommand w) := by
  rcases h with hword | ⟨henc, hword⟩
  · cases hd : decode (.cmd w) with
    | ok i => exact absurd (toNat_lt_of_decode_cmd w i hd) (Nat.not_lt.mpr hword)
    | error e => rw [step_event s _ rest hw he, fetchEvent_illegal w _ e hd]
  · obtain ⟨hpack, hrenc, hfenc⟩ := exec_encode_of_not_hasEnc (s.take rest) henc
    rcases hword with rfl | rfl | rfl
    · rw [step_cmd s _ rest .pack hw he rfl, hpack]
    · rw [step_cmd s _ rest .renc hw he rfl, hrenc]
    · rw [step_cmd s _ rest .fenc hw he rfl, hfenc]

/-- The registers after an illegal command (44_control.md R187), and the frame of 60_exceptions.md R210. -/
theorem State.illegalCommand_failed (s : State) (w : Word) : s.Failed (s.illegalCommand w) 5 0 0 0 w := by
  simp [State.Failed, State.Kept, stateErr]

/-- Settles O44: both kinds of illegal word end in the one error entry. -/
theorem illegalCommandEntry : Obligations.IllegalCommandEntry := by
  intro s w rest hw he hword
  exact ⟨_, step_illegal s w rest hw he hword, (s.take rest).illegalCommand_failed w⟩

/-! ## Register reads -/

/-- A pending read is answered with the word that the bus gives at its address, whichever events come after it. -/
theorem State.readsAs_of_busRead (s : State) (a : Addr) (v : Word) (hw : s.work = none)
    (h : ∀ rest, (s.take rest).busRead a = (s.take rest).answer v) : s.ReadsAs a v := by
  intro rest he
  rw [step_rd s a rest hw he, h]
  rfl

/-- A header register reads as its byte. -/
theorem State.readsAs_hdr (s : State) (i : Fin 12) (hw : s.work = none) :
    s.ReadsAs (BitVec.ofNat 12 (0x010 + i.val)) (s.hdr[i].setWidth 16) := by
  refine s.readsAs_of_busRead _ _ hw fun rest => ?_
  rw [State.busRead, locate_hdr]
  rfl

/-- A cell of the record reads as its byte, a hardwired one as 0 (10_state.md R23). -/
theorem State.readsAs_n (s : State) (i : Nat) (hw : s.work = none) (hi : i < natLen) :
    s.ReadsAs (BitVec.ofNat 12 (0x200 + i)) (if kindAt s.config i = .rsvd then 0 else (s.n.read i).setWidth 16) := by
  have hcell : (readCell s.config s.n i).setWidth 16 =
      if kindAt s.config i = .rsvd then 0 else (s.n.read i).setWidth 16 := by
    by_cases hk : kindAt s.config i = .rsvd
    · rw [readCell_of_rsvd _ _ _ hk, if_pos hk]
      rfl
    · rw [readCell_of_ne _ _ _ hk, if_neg hk]
  refine s.readsAs_of_busRead _ _ hw fun rest => ?_
  rw [State.busRead, locate_n _ i hi, ← hcell]
  rfl

/-- Settles O51: each register is answered from its own location of the map. -/
theorem registerReads : Obligations.RegisterReads := by
  intro s hw
  have reg : ∀ a v, (∀ rest, (s.take rest).busRead a = (s.take rest).answer v) → s.ReadsAs a v :=
    fun a v => s.readsAs_of_busRead a v hw
  exact ⟨reg _ _ fun _ => rfl, reg _ _ fun _ => rfl, reg _ _ fun _ => rfl, reg _ _ fun _ => rfl,
    reg _ _ fun _ => rfl, reg _ _ fun _ => rfl, reg _ _ fun _ => rfl, reg _ _ fun _ => rfl,
    reg _ _ fun _ => rfl, reg _ _ fun _ => rfl,
    fun i => s.readsAs_hdr i hw, fun i hi => s.readsAs_n i hw hi, fun i hi => s.readsAs_tag i hw hi⟩

/-! ## Reads of the output -/

/-- A read inside the output buffer. -/
theorem State.busRead_obuf (s : State) (i : Nat) (haddr : 0x800 + i < 4096) (hi : i < s.config.obufCap) :
    s.busRead (BitVec.ofNat 12 (0x800 + i)) = s.readObuf i := by
  rw [State.busRead, locate_obuf _ i haddr, if_pos hi]

/-- A read past the output buffer. -/
theorem State.busRead_past_obuf (s : State) (i : Nat) (haddr : 0x800 + i < 4096) (hi : s.config.obufCap ≤ i) :
    s.busRead (BitVec.ofNat 12 (0x800 + i)) = .refused (.unmapped (BitVec.ofNat 12 (0x800 + i))) := by
  rw [State.busRead, locate_obuf _ i haddr, if_neg (Nat.not_lt.mpr hi)]

/-- Settles O52: `OLEN` and `OBUF_CAP` cut the buffer's addresses into the bytes of the output, the drawn bytes and the
unmapped rest. -/
theorem outputReads : Obligations.OutputReads := by
  intro s i hw haddr hcap
  refine ⟨fun hi => ?output, fun hlow hi rest he => ?drawn, fun hi rest he => ?past⟩
  case output =>
    refine s.readsAs_of_busRead _ _ hw fun rest => ?_
    rw [(s.take rest).busRead_obuf i haddr (Nat.lt_of_lt_of_le hi hcap), State.readObuf_lt i (s.take rest) hi]
    rfl
  case drawn =>
    have hstep := step_rd s _ rest hw he
    rw [(s.take rest).busRead_obuf i haddr hi, State.readObuf_ge i (s.take rest) hlow] at hstep
    exact ⟨_, Config.unspecifiedByte s.draws, hstep, rfl, rfl⟩
  case past =>
    rw [step_rd s _ rest hw he, (s.take rest).busRead_past_obuf i haddr hi]

/-! ## Register writes -/

/-- A write of `CFG` stores bit 0 (10_state.md R29). -/
theorem cfgWrite_eq_ite (d : Word) : cfgWrite d = if d.getLsbD 0 then 1 else 0 := by
  calc cfgWrite d
      = (BitVec.ofBool (d.getLsbD 0)).setWidth 16 := BitVec.and_one_eq_setWidth_ofBool_getLsbD
    _ = if d.getLsbD 0 then 1 else 0 := by cases d.getLsbD 0 <;> rfl

/-- A hardwired cell ignores a write (10_state.md R23). -/
theorem writeCell_of_rsvd (c : Config) (m : Memory) (i : Nat) (b : Byte) (h : kindAt c i = .rsvd) :
    writeCell c m i b = m :=
  if_neg fun hw => hw.2 h

/-- Any other cell stores the byte. -/
theorem writeCell_of_ne (c : Config) (m : Memory) (i : Nat) (b : Byte) (hi : i < natLen) (h : kindAt c i ≠ .rsvd) :
    writeCell c m i b = m.write i b :=
  if_pos ⟨hi, h⟩

/-- A pending write of `CFG`. -/
theorem step_wr_cfg (s : State) (d : Word) (rest : List HostEvent) (hw : s.work = none)
    (he : s.events = .wr 0x002 d :: rest) : step s = .next { s.take rest with cfg := cfgWrite d } := by
  rw [step_wr s _ d rest .cfg hw he rfl nofun nofun]
  rfl

/-- A pending write of a header register. -/
theorem step_wr_hdr (s : State) (i : Fin 12) (d : Word) (rest : List HostEvent) (hw : s.work = none)
    (he : s.events = .wr (BitVec.ofNat 12 (0x010 + i.val)) d :: rest) :
    step s = .next { s.take rest with hdr := s.hdr.set i (d.setWidth 8) } := by
  rw [step_wr s _ d rest _ hw he (locate_hdr _ i) nofun nofun, State.busWrite, locate_hdr]
  rfl

/-- A pending write of a cell of the record. -/
theorem step_wr_n (s : State) (i : Nat) (d : Word) (rest : List HostEvent) (hw : s.work = none) (hi : i < natLen)
    (he : s.events = .wr (BitVec.ofNat 12 (0x200 + i)) d :: rest) :
    step s = .next { s.take rest with n := writeCell s.config s.n i (d.setWidth 8) } := by
  rw [step_wr s _ d rest _ hw he (locate_n _ i hi) nofun nofun, State.busWrite, locate_n _ i hi]
  rfl

/-- Settles O54: `CFG` keeps bit 0 of the word, a header register and a cell of the record its low byte, a hardwired
cell nothing. -/
theorem registerWrites : Obligations.RegisterWrites := by
  intro s d rest hw
  refine ⟨fun he => ?cfg, fun i he => step_wr_hdr s i d rest hw he,
    fun i hi he => ⟨_, step_wr_n s i d rest hw hi he, fun hk => ?hardwired, fun hk j => ?stored⟩⟩
  case cfg =>
    rw [← cfgWrite_eq_ite]
    exact step_wr_cfg s d rest hw he
  case hardwired => exact writeCell_of_rsvd _ _ i _ hk
  case stored => rw [writeCell_of_ne _ _ i _ hi hk, Memory.read_write]

end Sys2Proof.Machine
end

section
/-! PROOFS. What the data commands leave after a success and after an error (44_control.md R186, 60_exceptions.md R210),
and that a command issued again leaves the same. -/

namespace Sys2Proof.Machine

/-! ## The two ends of a data command -/

/-- The prologue clears nothing that a body reads. -/
theorem passBody_prologue (cmd : PassCmd) (s : State) : passBody cmd s.prologue = passBody cmd s :=
  passBody_congr cmd _ _ ⟨rfl, rfl, fun _ => ⟨rfl, rfl⟩, fun _ => ⟨rfl, rfl⟩⟩

/-- A command whose body reaches its commit. -/
theorem exec_passInstr_of_ok {cmd : PassCmd} {s : State} {w : Commit} (h : passBody cmd s = .ok w) :
    exec (passInstr cmd) s = .next (s.prologue.commit w) := by
  rw [exec_passInstr, State.dataCommand_of_ok _ _ _ ((passBody_prologue cmd s).trans h)]

/-- A command whose body raises. -/
theorem exec_passInstr_of_error {cmd : PassCmd} {s : State} {e : Err} (h : passBody cmd s = .error e) :
    exec (passInstr cmd) s = .next (s.prologue.errorEntry e) := by
  rw [exec_passInstr, State.dataCommand_of_error _ _ _ ((passBody_prologue cmd s).trans h)]

/-- All that a data command can do. -/
theorem exec_passInstr_cases (cmd : PassCmd) (s : State) :
    (∃ w, passBody cmd s = .ok w ∧ exec (passInstr cmd) s = .next (s.prologue.commit w)) ∨
    (∃ e, passBody cmd s = .error e ∧ exec (passInstr cmd) s = .next (s.prologue.errorEntry e)) := by
  cases h : passBody cmd s with
  | ok w => exact .inl ⟨w, rfl, exec_passInstr_of_ok h⟩
  | error e => exact .inr ⟨e, rfl, exec_passInstr_of_error h⟩

/-- A data command that does not end in `ERR` is one that committed. -/
theorem exec_passInstr_of_status_ne {cmd : PassCmd} {s t : State} (h : exec (passInstr cmd) s = .next t)
    (hstatus : t.status ≠ 2) : ∃ w, passBody cmd s = .ok w ∧ t = s.prologue.commit w := by
  rcases exec_passInstr_cases cmd s with ⟨w, hw, hs⟩ | ⟨e, -, hs⟩
  · rw [hs] at h
    cases h
    exact ⟨w, hw, rfl⟩
  · rw [hs] at h
    cases h
    exact absurd rfl hstatus

/-- The bodies of the encode commands in a block with the encode path. -/
theorem encodeBody_of_hasEnc {w : Word} {body : State → Except Err Commit} {s : State} (h : s.config.hasEnc = true) :
    encodeBody w body s = body s := if_pos h

theorem passBody_pack {s : State} (h : s.config.hasEnc = true) : passBody .pack s = bodyPack s := encodeBody_of_hasEnc h

theorem passBody_renc {s : State} (h : s.config.hasEnc = true) : passBody .renc s = bodyRenc s := encodeBody_of_hasEnc h

theorem passBody_fenc {s : State} (h : s.config.hasEnc = true) : passBody .fenc s = bodyFenc s := encodeBody_of_hasEnc h

/-- A block that has the instruction runs its body. -/
theorem encodeBody_eq_ok {w : Word} {body : State → Except Err Commit} {s : State} {r : Commit}
    (h : encodeBody w body s = .ok r) : s.config.hasEnc = true ∧ body s = .ok r := by
  unfold encodeBody at h
  split at h
  next henc => exact ⟨henc, h⟩
  next => cases h

/-! ## The result registers -/

/-- A commit never ends in `ERR` (10_state.md R28). -/
theorem okStatus_ne_err (warn : Option Nat) : okStatus warn ≠ 2 := by
  cases warn <;> simp [okStatus, stateOk, warnBit]

/-- The result registers after the prologue and a commit (10_state.md R28, R37). -/
theorem State.commit_succeeded (w : Commit) (s : State) : (s.prologue.commit w).Succeeded w.warn := by
  cases hw : w.warn with
  | none => simp [State.Succeeded, hw, okStatus, okWarnoff, stateOk]
  | some i => simp [State.Succeeded, hw, okStatus, okWarnoff, stateOk, warnBit]

/-- A commit writes none of the inputs and none of the model's own fields. -/
theorem State.commit_kept (w : Commit) (s : State) : s.Kept (s.prologue.commit w) :=
  ⟨rfl, rfl, rfl, rfl, rfl, rfl, rfl⟩

/-- The registers after the error entry (60_exceptions.md R210). -/
theorem State.errorEntry_failed (e : Err) (s : State) :
    s.Failed (s.errorEntry e) (errCode e.kind) (stageCode e.stage) e.off e.exp e.act := by
  simp [State.Failed, State.Kept, stateErr]

/-- The prologue before it clears only registers that the error entry writes. -/
theorem State.prologue_errorEntry_failed (e : Err) (s : State) :
    s.Failed (s.prologue.errorEntry e) (errCode e.kind) (stageCode e.stage) e.off e.exp e.act :=
  s.prologue.errorEntry_failed e

/-- A command whose body raises ends in the error entry. -/
theorem exec_passInstr_failed {cmd : PassCmd} {s : State} {e : Err} (h : passBody cmd s = .error e) :
    ∃ t, exec (passInstr cmd) s = .next t ∧
      s.Failed t (errCode e.kind) (stageCode e.stage) e.off e.exp e.act :=
  ⟨_, exec_passInstr_of_error h, s.prologue_errorEntry_failed e⟩

/-- The five codes (60_exceptions.md R201). -/
theorem errCode_bounds (k : ErrKind) : 1 ≤ (errCode k).toNat ∧ (errCode k).toNat ≤ 5 := by cases k <;> decide

/-- Settles O46: the body commits or raises, and the frame around it does the rest. -/
theorem dataCommandsSucceedOrFail : Obligations.DataCommandsSucceedOrFail := by
  intro i s hi
  obtain ⟨cmd, rfl⟩ := eq_passInstr_of_isDataCommand i hi
  rcases exec_passInstr_cases cmd s with ⟨w, -, hs⟩ | ⟨e, -, hs⟩
  · exact ⟨_, hs, .inl ⟨w.warn, s.commit_succeeded w, rfl, s.commit_kept w⟩⟩
  · obtain ⟨hlow, hhigh⟩ := errCode_bounds e.kind
    exact ⟨_, hs, .inr ⟨_, _, _, _, _, hlow, hhigh, s.prologue_errorEntry_failed e⟩⟩

/-- Settles O45: the three encode commands end as an illegal word does. -/
theorem encodePathAbsent : Obligations.EncodePathAbsent := by
  intro s h
  obtain ⟨hpack, hrenc, hfenc⟩ := exec_encode_of_not_hasEnc s h
  exact ⟨⟨_, hpack, s.illegalCommand_failed _⟩, ⟨_, hrenc, s.illegalCommand_failed _⟩,
    ⟨_, hfenc, s.illegalCommand_failed _⟩⟩

/-! ## A command issued again -/

/-- A store at 0 made twice. -/
theorem Memory.store_zero_store_zero (m : Memory) (bs : List Byte) : (m.store 0 bs).store 0 bs = m.store 0 bs := by
  have hentries : (Memory.entries 0 bs).filter (fun x => decide (bs.length ≤ x.1)) = [] := by
    refine List.filter_eq_nil_iff.mpr fun x hx => ?_
    have hlt := (Memory.entries_mem 0 bs x hx).2.1
    simp only [decide_eq_true_eq]
    omega
  simp [Memory.store, hentries]

/-- The record written twice with one image. -/
theorem writeCells_writeCells (c : Config) (m : Memory) (bs : List Byte) :
    writeCells c (writeCells c m bs) bs = writeCells c m bs :=
  Memory.store_zero_store_zero m _

/-- A commit made again, after the prologue, changes nothing. -/
theorem State.commit_prologue_commit (w : Commit) (s : State) :
    (s.prologue.commit w).prologue.commit w = s.prologue.commit w := by
  unfold State.commit State.prologue
  cases hi : w.image <;> cases hh : w.hdr <;> simp [Memory.store_zero_store_zero, writeCells_writeCells]

/-- The encode commands stage no header and no image. -/
theorem passBody_encode_eq_ok {cmd : PassCmd} {s : State} {w : Commit} (hcmd : readsInput cmd = false)
    (h : passBody cmd s = .ok w) : w.hdr = none ∧ w.image = none := by
  cases cmd with
  | renc =>
    obtain ⟨-, -, rfl⟩ := (bodyRenc_eq_ok s w).mp (encodeBody_eq_ok h).2
    exact ⟨rfl, rfl⟩
  | fenc =>
    obtain ⟨-, -, -, rfl⟩ := (bodyFenc_eq_ok s w).mp (encodeBody_eq_ok h).2
    exact ⟨rfl, rfl⟩
  | unpk | pack | rdec | fdec => cases hcmd

/-- A commit writes none of the inputs of its own command. -/
theorem State.commit_sameInputs {cmd : PassCmd} {s : State} {w : Commit} (h : passBody cmd s = .ok w) :
    (s.prologue.commit w).SameInputs cmd s where
  config := rfl
  cfg := rfl
  input _ := ⟨rfl, rfl⟩
  record hcmd := by
    obtain ⟨hhdr, himg⟩ := passBody_encode_eq_ok hcmd h
    have hn : (s.prologue.commit w).n = s.n := State.commit_n_of_none w _ himg
    exact ⟨by simp [hhdr], State.image_congr _ _ fun a _ => by rw [hn]; rfl⟩

/-- An error entry writes none of the inputs. -/
theorem State.errorEntry_sameInputs (cmd : PassCmd) (e : Err) (s : State) :
    (s.prologue.errorEntry e).SameInputs cmd s :=
  ⟨rfl, rfl, fun _ => ⟨rfl, rfl⟩, fun _ => ⟨rfl, rfl⟩⟩

/-- Settles O48: the command reads the same inputs again, so its body answers the same, and the second frame writes what
the first wrote. -/
theorem dataCommandsRepeat : Obligations.DataCommandsRepeat := by
  intro i s t hi h
  obtain ⟨cmd, rfl⟩ := eq_passInstr_of_isDataCommand i hi
  rcases exec_passInstr_cases cmd s with ⟨w, hw, hs⟩ | ⟨e, he, hs⟩
  · rw [hs] at h
    cases h
    have hagain : passBody cmd (s.prologue.commit w) = .ok w :=
      (passBody_congr cmd _ _ (State.commit_sameInputs hw)).trans hw
    rw [exec_passInstr_of_ok hagain, State.commit_prologue_commit]
  · rw [hs] at h
    cases h
    have hagain : passBody cmd (s.prologue.errorEntry e) = .error e :=
      (passBody_congr cmd _ _ (State.errorEntry_sameInputs cmd e s)).trans he
    exact exec_passInstr_of_error hagain

/-! ## UNPK and PACK -/

/-- The packed length of what the input buffer holds fits the output buffer, and a word (00_scope.md R9). -/
theorem plen_le_obufCap {c : Config} {n : Nat} (hcap : c.ObufCapOk) (hn : n ≤ c.ibufCap) :
    plen n ≤ c.obufCap ∧ c.obufCap ≤ 2048 := by
  obtain ⟨hlow, hhigh⟩ := hcap
  unfold plen
  omega

theorem ulen_le (n : Nat) : ulen n ≤ n := by
  unfold ulen; omega

/-- A length below 65536 is what its word holds. -/
theorem word_toNat {n : Nat} (h : n < 65536) : (word n).toNat = n := by
  rw [BitVec.toNat_ofNat]
  exact Nat.mod_eq_of_lt h

/-- A cell of `OBUF` above the committed output is as it was (log 7). -/
theorem State.commit_obuf_above (w : Commit) (s : State) (a : Nat) (h : w.out.length ≤ a) :
    (s.commit w).obuf.read a = s.obuf.read a := by
  rw [State.commit_obuf, Memory.read_store, if_neg (by omega)]

/-- A cell of `OBUF` below the length of the committed output is the output's byte. -/
theorem State.commit_obuf_below (w : Commit) (s : State) (a : Nat) (h : a < w.out.length) :
    (s.commit w).obuf.read a = w.out.getD a 0 := by
  rw [State.commit_obuf, Memory.read_store, if_pos (by omega)]
  rfl

/-- Settles O13: the capacity check passes, and the unpacked bytes are fewer than the input's. -/
theorem unpkCompletes : Obligations.UnpkCompletes := by
  intro s h
  have hlen : (unpack s.input).length = ulen s.ilen.toNat := by rw [unpack_length, State.input_length]
  have hword : ulen s.ilen.toNat < 65536 := (ulen_le _).trans_lt s.ilen.isLt
  refine ⟨_, exec_passInstr_of_ok (cmd := .unpk) (bodyUnpk_of_fits s h), State.commit_output _ _ (hlen ▸ hword), ?_,
    fun a ha => State.commit_obuf_above _ _ a (hlen ▸ ha), s.commit_succeeded _, rfl, rfl, rfl, s.commit_kept _⟩
  rw [State.commit_olen, hlen, word_toNat hword]

/-- Settles O17: the capacity check passes, and the packed bytes fit the output buffer. -/
theorem packCompletes : Obligations.PackCompletes := by
  intro s henc _ hcap h
  have hlen : (pack s.input).length = plen s.ilen.toNat := by rw [pack_length, State.input_length]
  obtain ⟨hfits, hmax⟩ := plen_le_obufCap hcap h
  have hword : plen s.ilen.toNat < 65536 := by omega
  have hbody : passBody .pack s = .ok { out := pack s.input } :=
    (passBody_pack henc).trans (bodyPack_of_fits s h)
  have holen : (s.prologue.commit { out := pack s.input }).olen.toNat = plen s.ilen.toNat := by
    rw [State.commit_olen, hlen, word_toNat hword]
  exact ⟨_, exec_passInstr_of_ok hbody, State.commit_output _ _ (hlen ▸ hword), holen, holen ▸ hfits,
    fun a ha => State.commit_obuf_above _ _ a (hlen ▸ ha), s.commit_succeeded _, rfl, rfl, rfl, s.commit_kept _⟩

/-- More bytes than `IBUF` holds fail the capacity check (60_exceptions.md R203). -/
theorem capacityCheck_of_overrun {s : State} (h : s.config.ibufCap < s.ilen.toNat) :
    capacityCheck s = some (shapeErr .capacity s.config.ibufCap s.ilen) := if_pos h

/-- Settles O18: the capacity check is the first thing that both bodies do. -/
theorem overrunRaisesShapeError : Obligations.OverrunRaisesShapeError := by
  intro s h
  have hcheck := capacityCheck_of_overrun h
  have hunpk : passBody .unpk s = .error (shapeErr .capacity s.config.ibufCap s.ilen) := by
    simp only [passBody, bodyUnpk, hcheck]
  have hpack : bodyPack s = .error (shapeErr .capacity s.config.ibufCap s.ilen) := by
    simp only [bodyPack, hcheck]
  exact ⟨exec_passInstr_failed hunpk,
    fun henc => exec_passInstr_failed ((passBody_pack henc).trans hpack)⟩

end Sys2Proof.Machine
end

section
/-! PROOFS. The record commands `RDEC` and `RENC`, and the frame commands `FDEC` and `FENC`: when they complete, where
they raise, and that each pair reverses the other (42_record.md sections 4 and 5, 43_frame.md sections 2 and 3). -/

namespace Sys2Proof.Machine

/-! ## The record after a commit -/

/-- The input as a map over its cells, as the walk meets it. -/
theorem State.input_eq_map {s : State} {n : Nat} (h : s.ilen.toNat = n) :
    s.input = (List.range n).map s.ibuf.read := by
  rw [State.input, Memory.bytes, h, ← List.range_eq_range']

/-- A cell of a committed image whose byte the walk passed reads that byte: a hardwired cell was passed as 0. -/
theorem readCell_writeCells_of_not_rejected {c : Config} {es : Bool} {m : Memory} {bs : List Byte} {i : Nat}
    (hi : i < bs.length) (h : ¬ Rejected c es i (bs.getD i 0)) : readCell c (writeCells c m bs) i = bs.getD i 0 := by
  rw [readCell_writeCells c m bs i hi]
  split
  next hk => exact (not_not.mp fun hne => h (.inl ⟨hk, fun h0 => hne h0.symm⟩))
  next => rfl

/-- A cell above a committed image is as it was. -/
theorem writeCells_read_above (c : Config) (m : Memory) (bs : List Byte) (i : Nat) (h : bs.length ≤ i) :
    (writeCells c m bs).read i = m.read i := by
  rw [writeCells, Memory.read_store, hardwired_length, if_neg (by omega)]

/-- The record after the commit of an image that was walked. -/
theorem State.commit_cells {w : Commit} {s : State} {es : Bool} {byte : Nat → Byte}
    (himg : w.image = some ((List.range natLen).map byte))
    (hok : ∀ i < natLen, ¬ Rejected s.config es i (byte i)) :
    (∀ i < natLen, readCell (s.commit w).config (s.commit w).n i = byte i) ∧
    ∀ i, natLen ≤ i → (s.commit w).n.read i = s.n.read i := by
  rw [State.commit_n_of_some w s _ himg, State.commit_config]
  refine ⟨fun i hi => ?_, fun i hi => writeCells_read_above _ _ _ _ (by simpa using hi)⟩
  have hget : ((List.range natLen).map byte).getD i 0 = byte i := by simp [List.getD, hi]
  have hcell := readCell_writeCells_of_not_rejected (m := s.n) (by simpa using hi) (hget.symm ▸ hok i hi)
  rwa [hget] at hcell

/-- The image after the commit of an image that was walked. -/
theorem State.image_commit {w : Commit} {s : State} {es : Bool} {bs : List Byte} {v : Option Nat}
    (himg : w.image = some bs) (hlen : bs.length = natLen) (hwalk : recWalk s.config es bs = .ok v) :
    (s.commit w).image = bs := by
  rw [← map_range_getD bs, hlen] at himg hwalk
  obtain ⟨hcells, -⟩ := State.commit_cells himg ((recWalk_eq_ok_iff _ _ _ _ _).mp hwalk).1
  conv_rhs => rw [← map_range_getD bs, hlen]
  exact List.map_congr_left fun i hi => hcells i (List.mem_range.mp hi)

/-! ## RDEC -/

/-- The body of `RDEC` on an image that the walk passes. -/
theorem bodyRdec_of_not_rejected {s : State} (hlen : s.ilen.toNat = natLen)
    (hok : ∀ i < natLen, ¬ Rejected s.config s.es i (s.ibuf.read i)) :
    bodyRdec s = .ok { image := some ((List.range natLen).map s.ibuf.read),
                       warn := firstUnrecognised s.config s.ibuf.read natLen } := by
  rw [bodyRdec_eq_ok, State.input_eq_map hlen]
  exact ⟨hlen, _, (recWalk_eq_ok_iff _ _ _ _ _).mpr ⟨hok, rfl⟩, rfl⟩

/-- The body of `RDEC` on an image with a rejected cell. -/
theorem bodyRdec_of_raisesAt {s : State} (hlen : s.ilen.toNat = natLen) {i : Nat} (hi : i < natLen)
    (hlow : ∀ j < i, ¬ Rejected s.config s.es j (s.ibuf.read j)) {e : Err}
    (h : RaisesAt s.config s.es i (s.ibuf.read i) e) : bodyRdec s = .error e := by
  have hwalk : recWalk s.config s.es s.input = .error e := by
    rw [State.input_eq_map hlen, recWalk_eq_error_iff]
    exact ⟨i, hi, h, hlow⟩
  simp only [bodyRdec, hlen, hwalk, ne_eq, not_true, if_false]

/-- Settles O32: every cell is stored but the hardwired ones, whose byte was 0. -/
theorem rdecCompletes : Obligations.RdecCompletes := by
  intro s hlen hok
  obtain ⟨hcells, habove⟩ := State.commit_cells (s := s.prologue)
    (w := { image := some ((List.range natLen).map s.ibuf.read),
            warn := firstUnrecognised s.config s.ibuf.read natLen }) rfl hok
  exact ⟨_, _, exec_passInstr_of_ok (cmd := .rdec) (bodyRdec_of_not_rejected hlen hok),
    (firstUnrecognised_iff _ _ _ _).mpr rfl, s.commit_succeeded _, hcells, habove, rfl, rfl,
    fun a => State.commit_obuf_above _ _ a (Nat.zero_le a), rfl, s.commit_kept _⟩

/-- Settles O33: the length first, then the lowest rejected cell of the walk. -/
theorem rdecRaises : Obligations.RdecRaises := by
  intro s
  refine ⟨fun hlen => exec_rdec_failed_of_length_ne hlen, fun hlen i hi hlow => ⟨fun hrsvd => ?_, fun hes hunrec => ?_⟩⟩
  · exact exec_passInstr_failed (cmd := .rdec) (bodyRdec_of_raisesAt hlen hi hlow (.inl ⟨hrsvd, rfl⟩))
  · exact exec_passInstr_failed (cmd := .rdec) (bodyRdec_of_raisesAt hlen hi hlow (.inr ⟨hes, hunrec, rfl⟩))

/-! ## The walk over the record -/

/-- A cell of the record is rejected only as unrecognised: a hardwired one reads 0. -/
theorem rejected_readCell_iff (c : Config) (es : Bool) (m : Memory) (i : Nat) :
    Rejected c es i (readCell c m i) ↔ es = true ∧ Unrecognised c i (readCell c m i) := by
  refine or_iff_right fun h => ?_
  exact h.2 (readCell_of_rsvd c m i h.1)

/-- The walk over the record passes when `ES` = 0 or every enumeration cell holds a variant's code. -/
theorem recWalk_image_of_recognised {s : State}
    (h : s.es = true → ∀ i < natLen, ¬ Unrecognised s.config i (readCell s.config s.n i)) :
    recWalk s.config s.es s.image = .ok (firstUnrecognised s.config (readCell s.config s.n) natLen) := by
  refine (recWalk_eq_ok_iff _ _ _ _ _).mpr ⟨fun i hi hrej => ?_, rfl⟩
  obtain ⟨hes, hunrec⟩ := (rejected_readCell_iff _ _ _ _).mp hrej
  exact h hes i hi hunrec

/-- With `ES` = 1 the walk over the record raises at the lowest unrecognised cell. -/
theorem recWalk_image_of_unrecognised {s : State} (hes : s.es = true) {i : Nat} (hi : i < natLen)
    (hlow : ∀ j < i, ¬ Unrecognised s.config j (readCell s.config s.n j))
    (h : Unrecognised s.config i (readCell s.config s.n i)) :
    recWalk s.config s.es s.image =
      .error ⟨.unrecognizedEnum, .natural, word i, (kindCode (kindAt s.config i)).setWidth 16,
        (readCell s.config s.n i).setWidth 16⟩ := by
  refine (recWalk_eq_error_iff _ _ _ _ _).mpr ⟨i, hi, .inr ⟨hes, h, rfl⟩, fun j hj hrej => ?_⟩
  exact hlow j hj ((rejected_readCell_iff _ _ _ _).mp hrej).2

/-! ## RENC -/

theorem bodyRenc_of_walk_ok {s : State} {warn : Option Nat} (h : recWalk s.config s.es s.image = .ok warn) :
    bodyRenc s = .ok { out := s.image, warn := warn } :=
  (bodyRenc_eq_ok s _).mpr ⟨warn, h, rfl⟩

theorem bodyRenc_of_walk_error {s : State} {e : Err} (h : recWalk s.config s.es s.image = .error e) :
    bodyRenc s = .error e := by
  rw [bodyRenc, h]

/-- Settles O34: the image is committed as the output. -/
theorem rencCompletes : Obligations.RencCompletes := by
  intro s henc hok
  have hbody := (passBody_renc henc).trans (bodyRenc_of_walk_ok (recWalk_image_of_recognised hok))
  refine ⟨_, _, exec_passInstr_of_ok hbody, (firstUnrecognised_iff _ _ _ _).mpr rfl, s.commit_succeeded _, ?olen,
    fun i hi => ?output, fun a ha => State.commit_obuf_above _ _ a (by simpa using ha), rfl, rfl, rfl, s.commit_kept _⟩
  case olen =>
    rw [State.commit_olen, State.image_length]
    rfl
  case output => rw [State.commit_obuf_below _ _ i (by simpa using hi), State.image_getD s i hi]

/-- Settles O35: with `ES` = 1 the walk raises at the lowest unrecognised cell. -/
theorem rencRaises : Obligations.RencRaises := by
  intro s henc hes i hi hlow hunrec
  have hbody := bodyRenc_of_walk_error (recWalk_image_of_unrecognised hes hi hlow hunrec)
  exact exec_passInstr_failed ((passBody_renc henc).trans hbody)

/-- Settles O36: `RENC` walks the very bytes that `RDEC` walked. -/
theorem rdecThenRencReproduces : Obligations.RdecThenRencReproduces := by
  intro s t u henc ht hstatus hu
  obtain ⟨w, hw, rfl⟩ := exec_passInstr_of_status_ne (cmd := .rdec) ht hstatus
  obtain ⟨hlen, warn, hwalk, hcommit⟩ := (bodyRdec_eq_ok s w).mp hw
  have hinput : s.input.length = natLen := (State.input_length s).trans hlen
  have himage : (s.prologue.commit w).image = s.input :=
    State.image_commit (by rw [hcommit]) hinput hwalk
  have hbody : bodyRenc (s.prologue.commit w) = .ok { out := s.input, warn := warn } := by
    rw [bodyRenc_of_walk_ok (by rw [himage]; exact hwalk), himage]
  have henc' : (s.prologue.commit w).config.hasEnc = true := henc
  have hexec := hu.symm.trans (exec_passInstr_of_ok ((passBody_renc henc').trans hbody))
  cases hexec
  exact ⟨okStatus_ne_err warn, State.commit_output _ _ (by rw [hinput]; decide)⟩

/-! ## The frame and its parts -/

/-- The frame check passes exactly when its four tests do (43_frame.md R161). -/
theorem frameCheck_eq_none_iff (c : Config) (raw : List Byte) (l : Word) :
    frameCheck c raw l = none ↔
      l.toNat = frameLen ∧ headerCheck c (headerOf raw) = none ∧
      raw.getD markOff 0 = fmtMark ∧ raw.getD termOff 0 = term := by
  by_cases hl : l.toNat = frameLen
  · cases hh : headerCheck c (headerOf raw) with
    | some e => simp [frameCheck_of_header_error hl hh]
    | none =>
      rw [frameCheck_of_header_ok hl hh]
      split_ifs <;> simp_all
  · simp [frameCheck_of_length_ne hl, hl]

/-- A frame by its four parts (30_encoding.md R80). -/
def frameOf (h : Vector Byte 12) (packed : List Byte) : List Byte := h.toList ++ [fmtMark] ++ packed ++ [term]

theorem frameBuild_eq (h : Vector Byte 12) (natural : List Byte) : frameBuild h natural = frameOf h (pack natural) := rfl

theorem frameOf_injective {h : Vector Byte 12} {p q : List Byte} : frameOf h p = frameOf h q ↔ p = q := by
  simp [frameOf]

theorem frameOf_length {h : Vector Byte 12} {p : List Byte} (hp : p.length = packedLen) :
    (frameOf h p).length = frameLen := by
  simp [frameOf, hp, packedLen, frameLen]

/-- Each part of a frame is found at its offset. -/
theorem headerOf_frameOf (h : Vector Byte 12) (p : List Byte) : headerOf (frameOf h p) = h := by
  refine Vector.ext fun i hi => ?_
  have hget : (frameOf h p)[i]? = some h[i] := by
    rw [frameOf, List.append_assoc, List.append_assoc, List.getElem?_append_left (by simpa using hi),
      Vector.getElem?_toList, Vector.getElem?_eq_getElem hi]
  rw [headerOf, Vector.getElem_ofFn, List.getD_eq_getElem?_getD, hget]
  rfl

theorem frameOf_getD_markOff (h : Vector Byte 12) (p : List Byte) : (frameOf h p).getD markOff 0 = fmtMark := by
  simp [frameOf, markOff]

theorem frameOf_getD_termOff {h : Vector Byte 12} {p : List Byte} (hp : p.length = packedLen) :
    (frameOf h p).getD termOff 0 = term := by
  have hlen : (h.toList ++ [fmtMark] ++ p).length = termOff := by simp [hp, packedLen, termOff]
  rw [frameOf, List.getD_eq_getElem?_getD, ← hlen, List.getElem?_concat_length]
  rfl

theorem payload_frameOf {h : Vector Byte 12} {p : List Byte} (hp : p.length = packedLen) :
    payload (frameOf h p) = p := by
  have hlen : (h.toList ++ [fmtMark]).length = payOff := by simp
  rw [payload, slice, frameOf, List.append_assoc _ p, List.drop_left' hlen, Nat.add_sub_cancel_left,
    List.take_left' hp]

/-- A byte of a frame and the bytes after it. -/
theorem drop_eq_cons_of_getD {raw : List Byte} {i : Nat} {b : Byte} (hi : i < raw.length) (h : raw.getD i 0 = b) :
    raw.drop i = b :: raw.drop (i + 1) := by
  rw [← h, List.getD_eq_getElem _ _ hi]
  exact List.drop_eq_getElem_cons hi

/-- The header slice of a frame. -/
theorem headerOf_toList {raw : List Byte} (hlen : raw.length = frameLen) : (headerOf raw).toList = raw.take markOff := by
  refine List.ext_getElem (by simp [hlen]; decide) fun i hi _ => ?_
  have hi' : i < raw.length := by rw [Vector.length_toList] at hi; rw [hlen]; unfold frameLen; omega
  simp [headerOf, hi']

/-- A sequence of 402 bytes is the header slice, a byte, the payload and a byte (30_encoding.md R80). -/
theorem frame_split {raw : List Byte} (hlen : raw.length = frameLen) :
    raw = (headerOf raw).toList ++ raw.getD markOff 0 :: (payload raw ++ [raw.getD termOff 0]) := by
  have hmark : raw.drop markOff = raw.getD markOff 0 :: raw.drop payOff :=
    drop_eq_cons_of_getD (by rw [hlen]; decide) rfl
  have hterm : raw.drop termOff = [raw.getD termOff 0] := by
    rw [drop_eq_cons_of_getD (by rw [hlen]; decide) rfl, List.drop_eq_nil_of_le (by rw [hlen])]
  have hpayload : payload raw ++ [raw.getD termOff 0] = raw.drop payOff := by
    rw [← hterm, payload, slice, Nat.add_sub_cancel_left,
      show raw.drop termOff = (raw.drop payOff).drop packedLen by rw [List.drop_drop]; rfl, List.take_append_drop]
  rw [headerOf_toList hlen, hpayload, ← hmark, List.take_append_drop]

/-- A sequence of 402 bytes with the marker and the terminator in their places is the frame of its parts. -/
theorem frameOf_parts {raw : List Byte} (hlen : raw.length = frameLen) (hmark : raw.getD markOff 0 = fmtMark)
    (hterm : raw.getD termOff 0 = term) : frameOf (headerOf raw) (payload raw) = raw := by
  have hsplit := frame_split hlen
  rw [hmark, hterm] at hsplit
  rw [frameOf, List.append_assoc, List.append_assoc, List.singleton_append]
  exact hsplit.symm

/-! ## FDEC -/

/-- What `FDEC` commits for a frame: its header, and its unpacked payload as the record and as the output. -/
def fdecCommit (raw : List Byte) (warn : Option Nat) : Commit where
  hdr := some (headerOf raw)
  image := some (unpack (payload raw))
  out := unpack (payload raw)
  warn := warn

/-- A commit of `FDEC`: the frame check passed, and the walk over the unpacked payload. -/
theorem bodyFdec_eq_ok_iff (s : State) (w : Commit) :
    bodyFdec s = .ok w ↔
      frameCheck s.config s.input s.ilen = none ∧
      ∃ warn, recWalk s.config s.es (unpack (payload s.input)) = .ok warn ∧ w = fdecCommit s.input warn := by
  rw [bodyFdec_eq_ok]
  refine ⟨fun ⟨hf, _, _, h⟩ => ⟨hf, h⟩, fun ⟨hf, h⟩ => ?_⟩
  have hlen : s.input.length = frameLen := (State.input_length s).trans (length_eq_of_frameCheck_eq_none hf)
  exact ⟨hf, payload_length hlen, unpack_payload_length hlen, h⟩

/-- Settles O38: the frame check and the walk pass, and the commit writes what they staged. -/
theorem fdecCompletes : Obligations.FdecCompletes := by
  intro s hl hhdr hmark hterm hok
  have hf : frameCheck s.config s.input s.ilen = none := by
    rw [frameCheck_input hl hhdr, if_neg (not_not.mpr hmark), if_neg (not_not.mpr hterm)]
  have hnat := unpack_payload_input hl
  have hout : (unpack (payload s.input)).length = natLen := by simp [hnat]
  have hbody : bodyFdec s = .ok (fdecCommit s.input (firstUnrecognised s.config (frameNatural s.ibuf.read) natLen)) :=
    (bodyFdec_eq_ok_iff s _).mpr ⟨hf, _, by rw [hnat, recWalk_eq_ok_iff]; exact ⟨hok, rfl⟩, rfl⟩
  obtain ⟨hcells, habove⟩ := State.commit_cells (s := s.prologue)
    (w := fdecCommit s.input (firstUnrecognised s.config (frameNatural s.ibuf.read) natLen)) (congrArg some hnat) hok
  refine ⟨_, _, exec_passInstr_of_ok (cmd := .fdec) hbody, (firstUnrecognised_iff _ _ _ _).mpr rfl,
    s.commit_succeeded _, headerOf_input hl, hcells, habove, ?olen, fun i hi => ?output,
    fun a ha => State.commit_obuf_above _ _ a (hout.trans_le ha), rfl, s.commit_kept _⟩
  case olen => exact congrArg word hout
  case output =>
    rw [State.commit_obuf_below _ _ i (hi.trans_eq hout.symm), fdecCommit, hnat]
    simp [hi]

/-! ## FENC -/

/-- The header registers by index. -/
theorem State.hdr_eq_hdrByte (s : State) (i : Fin 12) : s.hdr[i] = s.hdrByte i.val := by
  simp [State.hdrByte]

/-- The body of `FENC` behind a header that matches: the walk over the record decides. -/
theorem bodyFenc_of_walk_ok {s : State} {warn : Option Nat} (hhdr : headerCheck s.config s.hdr = none)
    (h : recWalk s.config s.es s.image = .ok warn) :
    bodyFenc s = .ok { out := frameBuild s.hdr s.image, warn := warn } :=
  (bodyFenc_eq_ok s _).mpr ⟨hhdr, warn, h, rfl⟩

theorem bodyFenc_of_walk_error {s : State} {e : Err} (hhdr : headerCheck s.config s.hdr = none)
    (h : recWalk s.config s.es s.image = .error e) : bodyFenc s = .error e := by
  simp only [bodyFenc, hhdr, h]

theorem bodyFenc_of_header_error {s : State} {e : Err} (h : headerCheck s.config s.hdr = some e) :
    bodyFenc s = .error e := by
  rw [bodyFenc, h]

/-- A record packs to the payload of a frame (41_pack.md R122). -/
theorem pack_image_length {bs : List Byte} (h : bs.length = natLen) : (pack bs).length = packedLen := by
  rw [pack_length, h]
  rfl

theorem frameBuild_length {h : Vector Byte 12} {bs : List Byte} (hlen : bs.length = natLen) :
    (frameBuild h bs).length = frameLen :=
  frameOf_length (pack_image_length hlen)

/-- Settles O40: the header check and the walk pass, and the frame is committed as the output. -/
theorem fencCompletes : Obligations.FencCompletes := by
  intro s henc hhdr hok
  have hcheck := (headerCheck_eq_none_iff s.hdr_eq_hdrByte).mpr hhdr
  have hlen : (frameBuild s.hdr s.image).length = frameLen := frameBuild_length s.image_length
  have hbody := (passBody_fenc henc).trans (bodyFenc_of_walk_ok hcheck (recWalk_image_of_recognised hok))
  exact ⟨_, _, exec_passInstr_of_ok hbody, (firstUnrecognised_iff _ _ _ _).mpr rfl, s.commit_succeeded _,
    congrArg word hlen, State.commit_output _ _ (by rw [hlen]; decide),
    fun a ha => State.commit_obuf_above _ _ a (hlen.trans_le ha), rfl, rfl, rfl, s.commit_kept _⟩

/-- Settles O41: the header check in ascending order, then the walk over the record. -/
theorem fencRaises : Obligations.FencRaises := by
  intro s henc
  refine ⟨fun i hlow hne => ?header, fun hhdr hes i hi hlow hunrec => ?record⟩
  case header =>
    have hbody := bodyFenc_of_header_error (headerCheck_eq_some s.hdr_eq_hdrByte i hlow hne)
    exact exec_passInstr_failed ((passBody_fenc henc).trans hbody)
  case record =>
    have hbody := bodyFenc_of_walk_error ((headerCheck_eq_none_iff s.hdr_eq_hdrByte).mpr hhdr)
      (recWalk_image_of_unrecognised hes hi hlow hunrec)
    exact exec_passInstr_failed ((passBody_fenc henc).trans hbody)

/-! ## R172 -/

/-- `FDEC` of a frame that `FENC` built walks the record that `FENC` walked. -/
theorem bodyFdec_of_frameBuild {u : State} {h : Vector Byte 12} {bs : List Byte} {warn : Option Nat}
    (hlen : bs.length = natLen) (hinput : u.input = frameBuild h bs) (hhdr : headerCheck u.config h = none)
    (hwalk : recWalk u.config u.es bs = .ok warn) :
    bodyFdec u = .ok { hdr := some h, image := some bs, out := bs, warn := warn } := by
  have hpacked := pack_image_length hlen
  have hl : u.ilen.toNat = frameLen := by rw [← State.input_length, hinput, frameBuild_length hlen]
  have hcommit : fdecCommit u.input warn = { hdr := some h, image := some bs, out := bs, warn := warn } := by
    rw [fdecCommit, hinput, frameBuild_eq, headerOf_frameOf, payload_frameOf hpacked, unpack_pack]
  rw [← hcommit, bodyFdec_eq_ok_iff, frameCheck_eq_none_iff, hinput, frameBuild_eq, headerOf_frameOf,
    payload_frameOf hpacked, unpack_pack]
  exact ⟨⟨hl, hhdr, frameOf_getD_markOff _ _, frameOf_getD_termOff hpacked⟩, warn, hwalk, rfl⟩

/-- Settles O42: the parts of the frame that `FENC` built are found again, and its payload unpacks to the record. -/
theorem fencThenFdec : Obligations.FencThenFdec := by
  intro s t u _ ht hstatus hconfig hcfg hilen hread
  obtain ⟨w, hw, rfl⟩ := exec_passInstr_of_status_ne (cmd := .fenc) ht hstatus
  obtain ⟨hhdr, warn, hwalk, rfl⟩ := (bodyFenc_eq_ok s w).mp (encodeBody_eq_ok hw).2
  have hlen := frameBuild_length (h := s.hdr) s.image_length
  have hinput : u.input = frameBuild s.hdr s.image := by
    rw [State.input_eq_map (n := frameLen) (by rw [hilen]; rfl), ← map_range_getD (frameBuild s.hdr s.image), hlen]
    refine List.map_congr_left fun i hi => ?_
    have hi' := List.mem_range.mp hi
    rw [hread i hi', State.commit_obuf_below _ _ i (hi'.trans_eq hlen.symm)]
  rw [← hconfig] at hhdr
  have hwalk' : recWalk u.config u.es s.image = .ok warn := by rw [hconfig, State.es_congr u s hcfg, hwalk]
  have hbody := bodyFdec_of_frameBuild s.image_length hinput hhdr hwalk'
  obtain ⟨hcells, -⟩ := State.commit_cells (s := u.prologue)
    (w := { hdr := some s.hdr, image := some s.image, out := s.image, warn := warn }) rfl
    ((recWalk_eq_ok_iff _ _ _ _ _).mp hwalk').1
  exact ⟨_, exec_passInstr_of_ok (cmd := .fdec) hbody, rfl, rfl, rfl, hcells⟩

/-- Settles O43: `FENC` builds the frame of the same header and of the natural bytes packed again, and the input is the
frame of that header and of its own payload. -/
theorem fdecThenFenc : Obligations.FdecThenFenc := by
  intro s t u henc ht hstatus hu
  obtain ⟨w, hw, rfl⟩ := exec_passInstr_of_status_ne (cmd := .fdec) ht hstatus
  obtain ⟨hf, warn, hwalk, rfl⟩ := (bodyFdec_eq_ok_iff s w).mp hw
  obtain ⟨hl, hhdr, hmark, hterm⟩ := (frameCheck_eq_none_iff _ _ _).mp hf
  have hinput : s.input.length = frameLen := (State.input_length s).trans hl
  have hnat := unpack_payload_length hinput
  have himage : (s.prologue.commit (fdecCommit s.input warn)).image = unpack (payload s.input) :=
    State.image_commit rfl hnat hwalk
  have hbody := bodyFenc_of_walk_ok (s := s.prologue.commit (fdecCommit s.input warn)) hhdr (himage.symm ▸ hwalk)
  rw [himage] at hbody
  have henc' : (s.prologue.commit (fdecCommit s.input warn)).config.hasEnc = true := henc
  have hexec := hu.symm.trans (exec_passInstr_of_ok ((passBody_fenc henc').trans hbody))
  cases hexec
  have hframe := frameBuild_length (h := headerOf s.input) hnat
  refine ⟨okStatus_ne_err warn, congrArg word hframe, ?_⟩
  calc _ ↔ frameOf (headerOf s.input) (pack (unpack (payload s.input))) = s.input := by
        rw [State.commit_output _ _ (by exact hframe.trans_lt (by decide))]; rfl
    _ ↔ frameOf (headerOf s.input) (pack (unpack (payload s.input))) = frameOf (headerOf s.input) (payload s.input) := by
        rw [frameOf_parts hinput hmark hterm]
    _ ↔ ValidlyPacked (payload s.input) := frameOf_injective.trans (pack_unpack_eq_iff _)

end Sys2Proof.Machine
end

section
/-! PROOFS. The schema for every group layout: which name stands at which offset, how many cells of each kind there are,
and that the structured record and the cells show the same thing (30_encoding.md section 4, 42_record.md section 1). -/

namespace Sys2Proof.Machine

/-! ## The slots of a layout -/

/-- The reserved slots in the relative order that R85 demands. -/
def rsvdSlots : List Slot := [.rsvd 0, .rsvd 1, .rsvd 2, .rsvd 3, .rsvd 4]

/-- Every layout is an arrangement of the same 31 slots (30_encoding.md R85). -/
theorem groupLayout_perm {c : Config} (h : c.GroupLayoutOk) : (rsvdSlots ++ groupItems).Perm c.groupLayout := by
  obtain ⟨hitems, hrsvd, -⟩ := h
  rw [← hitems, rsvdSlots, ← hrsvd]
  exact List.filter_append_perm Slot.isRsvd c.groupLayout

theorem groupLayout_length {c : Config} (h : c.GroupLayoutOk) : c.groupLayout.length = groupLen :=
  (groupLayout_perm h).length_eq.symm

theorem groupLayout_nodup {c : Config} (h : c.GroupLayoutOk) : c.groupLayout.Nodup :=
  (groupLayout_perm h).nodup_iff.mp (by decide)

theorem mem_groupLayout {c : Config} (h : c.GroupLayoutOk) (slot : Slot) : slot ∈ c.groupLayout := by
  refine (groupLayout_perm h).mem_iff.mp ?_
  cases slot with
  | slider f => cases f <;> decide
  | knob f => cases f <;> decide
  | button b f => cases b <;> cases f <;> decide
  | rsvd i => revert i; decide

/-! ## The name at each offset -/

theorem cellName_group (c : Config) {g r : Nat} (hg : g < 8) (hr : r < groupLen) :
    cellName c (groupBase + groupLen * g + r) = .group g (c.groupLayout.getD r (.rsvd 0)) := by
  simp only [groupLen, groupBase] at hr ⊢
  have hdiv : (3 + 31 * g + r - 3) / 31 = g := by omega
  have hmod : (3 + 31 * g + r - 3) % 31 = r := by omega
  rw [cellName, if_neg (by omega), if_neg (by omega), if_neg (by omega), if_pos (by simp only [transportBase]; omega),
    hdiv, hmod]

theorem cellName_transport (c : Config) {q r : Nat} (hq : q < 11) (hr : r < btnLen) :
    cellName c (buttonBase + btnLen * q + r) =
      .transport (transportButtons.getD q .record) (buttonFields.getD r .rsvd) := by
  simp only [btnLen, buttonBase] at hr ⊢
  have hdiv : (252 + 6 * q + r - 252) / 6 = q := by omega
  have hmod : (252 + 6 * q + r - 252) % 6 = r := by omega
  rw [cellName, if_neg (by omega), if_neg (by omega), if_neg (by omega), if_neg (by simp only [transportBase]; omega),
    if_neg (by simp only [transportBase]; omega), if_pos (by simp only [customBase]; omega), hdiv, hmod]

theorem cellName_custom (c : Config) {i : Nat} (hi : i < 5) : cellName c (customBase + i) = .custom i := by
  simp only [cellName, transportBase, customBase, trailBase]
  rw [if_neg (by omega), if_neg (by omega), if_neg (by omega), if_neg (by omega), if_neg (by omega), if_neg (by omega),
    if_pos (by omega), Nat.add_sub_cancel_left]

theorem cellName_trail (c : Config) (i : Nat) : cellName c (trailBase + i) = .trail i := by
  simp only [cellName, transportBase, customBase, trailBase]
  rw [if_neg (by omega), if_neg (by omega), if_neg (by omega), if_neg (by omega), if_neg (by omega), if_neg (by omega),
    if_neg (by omega), Nat.add_sub_cancel_left]

/-- Every natural offset stands in one of the parts of the record (30_encoding.md R84, R97). -/
theorem offset_cases {i : Nat} (h : i < natLen) :
    i = 0 ∨ i = 1 ∨ i = 2 ∨ (∃ g r, g < 8 ∧ r < groupLen ∧ i = groupBase + groupLen * g + r) ∨ i = transportBase ∨
    (∃ q r, q < 11 ∧ r < btnLen ∧ i = buttonBase + btnLen * q + r) ∨
    (∃ j, j < 5 ∧ i = customBase + j) ∨ ∃ j, j < 16 ∧ i = trailBase + j := by
  simp only [natLen, groupLen, groupBase, transportBase, btnLen, buttonBase, customBase, trailBase] at *
  by_cases h0 : i < 3
  · omega
  by_cases h1 : i < 251
  · exact .inr (.inr (.inr (.inl ⟨(i - 3) / 31, (i - 3) % 31, by omega, by omega, by omega⟩)))
  by_cases h2 : i = 251
  · exact .inr (.inr (.inr (.inr (.inl h2))))
  by_cases h3 : i < 318
  · exact .inr (.inr (.inr (.inr (.inr (.inl ⟨(i - 252) / 6, (i - 252) % 6, by omega, by omega, by omega⟩)))))
  by_cases h4 : i < 323
  · exact .inr (.inr (.inr (.inr (.inr (.inr (.inl ⟨i - 318, by omega, by omega⟩))))))
  · exact .inr (.inr (.inr (.inr (.inr (.inr (.inr ⟨i - 323, by omega, by omega⟩))))))

/-! ## The counts of the kinds -/

/-- The names of the schema in line order. -/
def schemaNames (c : Config) : List CellName :=
  [.commonChannel, .commonMode, .commonLed]
  ++ (List.range 8).flatMap (fun g => c.groupLayout.map (.group g))
  ++ [.transportChannel]
  ++ transportButtons.flatMap (fun b => buttonFields.map (.transport b))
  ++ (List.range 5).map .custom
  ++ (List.range 16).map .trail

theorem map_range_add {α : Type} (f : Nat → α) (a b : Nat) :
    (List.range (a + b)).map f = (List.range a).map f ++ (List.range b).map (fun i => f (a + i)) := by
  rw [List.range_add, List.map_append, List.map_map]
  rfl

/-- A range of `n` rows of `len` cells each. -/
theorem map_range_mul {α : Type} (f : Nat → α) (len n : Nat) :
    (List.range (len * n)).map f = (List.range n).flatMap fun q => (List.range len).map fun r => f (len * q + r) := by
  induction n with
  | zero => rfl
  | succ n ih => rw [Nat.mul_succ, map_range_add, ih, List.range_succ, List.flatMap_append, List.flatMap_singleton]

/-- A group's names, slot by slot. -/
theorem map_cellName_group {c : Config} (h : c.GroupLayoutOk) {g : Nat} (hg : g < 8) :
    (List.range groupLen).map (fun r => cellName c (groupBase + groupLen * g + r)) = c.groupLayout.map (.group g) := by
  have hlen := groupLayout_length h
  refine List.ext_getElem (by simp [hlen]) fun r hr _ => ?_
  have hr' : r < groupLen := by simpa using hr
  simp only [List.getElem_map, List.getElem_range]
  rw [cellName_group c hg hr', List.getD_eq_getElem _ _ (hlen ▸ hr')]

/-- A transport button's names, cell by cell. -/
theorem map_cellName_transport (c : Config) {q : Nat} (hq : q < 11) :
    (List.range btnLen).map (fun r => cellName c (buttonBase + btnLen * q + r)) =
      buttonFields.map (.transport (transportButtons.getD q .record)) := by
  have hcells : ∀ r ∈ List.range btnLen, cellName c (buttonBase + btnLen * q + r) =
      .transport (transportButtons.getD q .record) (buttonFields.getD r .rsvd) :=
    fun r hr => cellName_transport c hq (List.mem_range.mp hr)
  rw [List.map_congr_left hcells]
  rfl

/-- The names at the 339 offsets. -/
theorem map_cellName {c : Config} (h : c.GroupLayoutOk) : (List.range natLen).map (cellName c) = schemaNames c := by
  have hgroups : (List.range (groupLen * 8)).map (fun i => cellName c (groupBase + i)) =
      (List.range 8).flatMap fun g => c.groupLayout.map (.group g) := by
    rw [map_range_mul]
    refine List.flatMap_congr fun g hg => ?_
    simp only [← Nat.add_assoc]
    exact map_cellName_group h (List.mem_range.mp hg)
  have hbuttons : (List.range (btnLen * 11)).map (fun i => cellName c (buttonBase + i)) =
      transportButtons.flatMap fun b => buttonFields.map (.transport b) := by
    have hq : ∀ q ∈ List.range 11, (List.range btnLen).map (fun r => cellName c (buttonBase + (btnLen * q + r))) =
        buttonFields.map (.transport (transportButtons.getD q .record)) := fun q hq => by
      simp only [← Nat.add_assoc]
      exact map_cellName_transport c (List.mem_range.mp hq)
    rw [map_range_mul, List.flatMap_congr hq]
    rfl
  have hcustom : (List.range 5).map (fun i => cellName c (customBase + i)) = (List.range 5).map .custom :=
    List.map_congr_left fun i hi => cellName_custom c (List.mem_range.mp hi)
  have htrail : (List.range 16).map (fun i => cellName c (trailBase + i)) = (List.range 16).map .trail :=
    List.map_congr_left fun i _ => cellName_trail c i
  have hlen : natLen = groupBase + groupLen * 8 + 1 + btnLen * 11 + 5 + 16 := rfl
  rw [hlen, map_range_add, map_range_add, map_range_add, map_range_add, map_range_add, hgroups]
  exact congrArg₂ _ (congrArg₂ _ (congrArg₂ _ rfl hbuttons) hcustom) htrail

/-- The kinds of the cells after the groups, in line order. -/
def tailKinds : List Kind :=
  [.u8] ++ transportButtons.flatMap (fun _ => buttonFields.map buttonFieldKind)
  ++ List.replicate 5 .u8 ++ List.replicate 16 .rsvd

/-- The kinds of the schema in line order. -/
theorem map_nameKind_schemaNames (c : Config) :
    (schemaNames c).map nameKind =
      [.u8, .mode, .led] ++ (List.range 8).flatMap (fun _ => c.groupLayout.map slotKind) ++ tailKinds := by
  have hgroup : ∀ g, (c.groupLayout.map (CellName.group g)).map nameKind = c.groupLayout.map slotKind :=
    fun g => List.map_map
  simp only [schemaNames, List.map_append, List.map_flatMap, hgroup, List.append_assoc]
  rfl

/-- The count of a kind: eight times over the slots of a group, in whatever order, and over the other cells. -/
theorem countP_schema {c : Config} (h : c.GroupLayoutOk) (p : Kind → Bool) :
    (schema c).countP (fun x => p x.2) =
      [Kind.u8, .mode, .led].countP p + 8 * ((rsvdSlots ++ groupItems).map slotKind).countP p + tailKinds.countP p := by
  have hkinds : (schema c).countP (fun x => p x.2) = ((schemaNames c).map nameKind).countP p := by
    rw [← map_cellName h, schema, List.countP_map, List.map_map, List.countP_map]
    rfl
  have hgroup : ((rsvdSlots ++ groupItems).map slotKind).countP p = (c.groupLayout.map slotKind).countP p :=
    ((groupLayout_perm h).map slotKind).countP_eq p
  rw [hkinds, hgroup, map_nameKind_schemaNames, List.countP_append, List.countP_append, List.countP_flatMap,
    Function.comp_def, List.map_const', List.sum_replicate, List.length_range, smul_eq_mul]

/-- Settles O25: the slots of a group are the same whatever their order. -/
theorem schemaKindCounts : Obligations.SchemaKindCounts := by
  intro c h
  refine ⟨groupLayout_length h, ?_, ?_, ?_, ?_, ?_, ?_⟩
  · exact (countP_schema h (· == .u8)).trans (by decide)
  · exact (countP_schema h (· == .mode)).trans (by decide)
  · exact (countP_schema h (· == .led)).trans (by decide)
  · exact (countP_schema h (· == .assign)).trans (by decide)
  · exact (countP_schema h (· == .behav)).trans (by decide)
  · exact (countP_schema h (· == .rsvd)).trans (by decide)

/-! ## The hardwired cells -/

/-- The reserved slots of the reference layout (10_state.md section 2, log 1). -/
theorem slotKind_reference_iff {r : Nat} (hr : r < groupLen) :
    slotKind (Config.reference.groupLayout.getD r (.rsvd 0)) = .rsvd ↔ r ∈ [0, 2, 6, 8, 12, 18, 24, 30] := by
  revert r
  decide

/-- The reserved cell of a button is its last (30_encoding.md R86). -/
theorem buttonFieldKind_getD_iff {r : Nat} (hr : r < btnLen) :
    buttonFieldKind (buttonFields.getD r .rsvd) = .rsvd ↔ r = 5 := by
  revert r
  decide

/-- The cells of kind `RSVD`, part by part. -/
theorem kindAt_group (c : Config) {g r : Nat} (hg : g < 8) (hr : r < groupLen) :
    kindAt c (groupBase + groupLen * g + r) = slotKind (c.groupLayout.getD r (.rsvd 0)) := by
  rw [kindAt, cellName_group c hg hr, nameKind]

theorem kindAt_transport (c : Config) {q r : Nat} (hq : q < 11) (hr : r < btnLen) :
    kindAt c (buttonBase + btnLen * q + r) = buttonFieldKind (buttonFields.getD r .rsvd) := by
  rw [kindAt, cellName_transport c hq hr, nameKind]

theorem kindAt_custom (c : Config) {i : Nat} (hi : i < 5) : kindAt c (customBase + i) = .u8 := by
  rw [kindAt, cellName_custom c hi, nameKind]

theorem kindAt_trail (c : Config) (i : Nat) : kindAt c (trailBase + i) = .rsvd := by
  rw [kindAt, cellName_trail c i, nameKind]

/-- The list of 10_state.md section 2: the reserved slots of the groups, the last cells of the transport buttons, and the
trailing cells. -/
def HardwiredOffset (i : Nat) : Prop :=
  (∃ g < 8, ∃ j ∈ [0, 2, 6, 8, 12, 18, 24, 30], i = 3 + 31 * g + j) ∨ (∃ b < 11, i = 252 + 6 * b + 5) ∨ 323 ≤ i

/-- The listed offsets, with bounds in place of the list. -/
theorem HardwiredOffset.cases {i : Nat} (h : HardwiredOffset i) :
    (∃ g < 8, ∃ j ≤ 30, j ∈ [0, 2, 6, 8, 12, 18, 24, 30] ∧ i = 3 + 31 * g + j) ∨ (∃ b < 11, i = 252 + 6 * b + 5) ∨
    323 ≤ i := by
  have hle : ∀ j ∈ [0, 2, 6, 8, 12, 18, 24, 30], j ≤ 30 := by decide
  exact h.imp_left fun ⟨g, hg, j, hj, hi⟩ => ⟨g, hg, j, hle j hj, hj, hi⟩

theorem hardwiredOffset_group_iff {g r : Nat} (hg : g < 8) (hr : r < 31) :
    HardwiredOffset (3 + 31 * g + r) ↔ r ∈ [0, 2, 6, 8, 12, 18, 24, 30] := by
  refine ⟨fun h => ?_, fun h => .inl ⟨g, hg, r, h, rfl⟩⟩
  rcases h.cases with ⟨g', _, j, _, hmem, hi⟩ | ⟨b, _, hi⟩ | hi
  · obtain rfl : r = j := by omega
    exact hmem
  · omega
  · omega

theorem hardwiredOffset_transport_iff {q r : Nat} (hq : q < 11) (hr : r < 6) :
    HardwiredOffset (252 + 6 * q + r) ↔ r = 5 := by
  refine ⟨fun h => ?_, fun h => .inr (.inl ⟨q, hq, by omega⟩)⟩
  rcases h.cases with ⟨g', _, j, _, _, hi⟩ | ⟨b, _, hi⟩ | hi <;> omega

theorem not_hardwiredOffset {i : Nat} (h : i < 3 ∨ i = 251 ∨ (318 ≤ i ∧ i < 323)) : ¬ HardwiredOffset i := by
  intro hlist
  rcases hlist.cases with ⟨g', _, j, _, _, hi⟩ | ⟨b, _, hi⟩ | hi <;> omega

/-- Settles O26: the kind of each part's cells, those of the groups by the reference layout. -/
theorem hardwiredCells : Obligations.HardwiredCells := by
  refine ⟨readCell_of_rsvd, fun i hi => ?_⟩
  change kindAt Config.reference i = .rsvd ↔ HardwiredOffset i
  rcases offset_cases hi with rfl | rfl | rfl | ⟨g, r, hg, hr, rfl⟩ | rfl | ⟨q, r, hq, hr, rfl⟩ | ⟨j, hj, rfl⟩ |
    ⟨j, hj, rfl⟩
  case inr.inr.inr.inl =>
    rw [kindAt_group _ hg hr, slotKind_reference_iff hr]
    exact (hardwiredOffset_group_iff hg hr).symm
  case inr.inr.inr.inr.inr.inl =>
    rw [kindAt_transport _ hq hr, buttonFieldKind_getD_iff hr]
    exact (hardwiredOffset_transport_iff hq hr).symm
  case inr.inr.inr.inr.inr.inr.inl =>
    rw [kindAt_custom _ hj]
    exact iff_of_false nofun (not_hardwiredOffset (by simp only [customBase]; omega))
  case inr.inr.inr.inr.inr.inr.inr =>
    rw [kindAt_trail]
    exact iff_of_true rfl (.inr (.inr (Nat.le_add_right 323 j)))
  all_goals exact iff_of_false nofun (not_hardwiredOffset (by decide))

end Sys2Proof.Machine
end

section
/-! PROOFS. The structured record: names and offsets are one-to-one, so the view of the cells and the image of a record
reverse each other (42_record.md R131, R134). -/

namespace Sys2Proof.Machine

/-! ## Names and offsets -/

/-- The names that the schema holds: there is no ninth group, no sixth custom cell and no seventeenth trailing one. -/
def InSchema : CellName → Prop
  | .group g _ => g < 8
  | .custom i => i < 5
  | .trail i => i < 16
  | .commonChannel | .commonMode | .commonLed | .transportChannel | .transport _ _ => True

theorem idxOf_transportButtons_lt (b : TransportButton) : transportButtons.idxOf b < 11 := by cases b <;> decide

theorem idxOf_buttonFields_lt (f : ButtonField) : buttonFields.idxOf f < btnLen := by cases f <;> decide

theorem getD_idxOf_transportButtons (b : TransportButton) :
    transportButtons.getD (transportButtons.idxOf b) .record = b := by cases b <;> rfl

theorem getD_idxOf_buttonFields (f : ButtonField) : buttonFields.getD (buttonFields.idxOf f) .rsvd = f := by
  cases f <;> rfl

theorem idxOf_getD_transportButtons {q : Nat} (hq : q < 11) :
    transportButtons.idxOf (transportButtons.getD q .record) = q := by
  revert q; decide

theorem idxOf_getD_buttonFields {r : Nat} (hr : r < btnLen) : buttonFields.idxOf (buttonFields.getD r .rsvd) = r := by
  revert r; decide

theorem idxOf_groupLayout_lt {c : Config} (h : c.GroupLayoutOk) (slot : Slot) : c.groupLayout.idxOf slot < groupLen :=
  groupLayout_length h ▸ List.idxOf_lt_length_of_mem (mem_groupLayout h slot)

theorem getD_idxOf_groupLayout {c : Config} (h : c.GroupLayoutOk) (slot : Slot) :
    c.groupLayout.getD (c.groupLayout.idxOf slot) (.rsvd 0) = slot := by
  rw [List.getD_eq_getElem?_getD, List.getElem?_idxOf (mem_groupLayout h slot)]
  rfl

/-- The offset of a name of the schema holds that name. -/
theorem cellName_cellOffset {c : Config} (h : c.GroupLayoutOk) {name : CellName} (hn : InSchema name) :
    cellName c (cellOffset c name) = name := by
  cases name with
  | commonChannel | commonMode | commonLed | transportChannel => rfl
  | group g slot =>
    rw [cellOffset, cellName_group c hn (idxOf_groupLayout_lt h slot), getD_idxOf_groupLayout h]
  | transport b f =>
    rw [cellOffset, cellName_transport c (idxOf_transportButtons_lt b) (idxOf_buttonFields_lt f),
      getD_idxOf_transportButtons, getD_idxOf_buttonFields]
  | custom i => exact cellName_custom c hn
  | trail i => exact cellName_trail c i

theorem cellOffset_lt {c : Config} (h : c.GroupLayoutOk) {name : CellName} (hn : InSchema name) :
    cellOffset c name < natLen := by
  cases name with
  | commonChannel | commonMode | commonLed | transportChannel => simp [cellOffset, transportBase, natLen]
  | group g slot =>
    have hg : g < 8 := hn
    have hslot := idxOf_groupLayout_lt h slot
    simp only [cellOffset, groupBase, groupLen, natLen] at hslot ⊢
    omega
  | transport b f =>
    have hb := idxOf_transportButtons_lt b
    have hf := idxOf_buttonFields_lt f
    simp only [cellOffset, buttonBase, btnLen, natLen] at hf ⊢
    omega
  | custom i =>
    have hi : i < 5 := hn
    simp only [cellOffset, customBase, natLen]
    omega
  | trail i =>
    have hi : i < 16 := hn
    simp only [cellOffset, trailBase, natLen]
    omega

/-- The name at an offset has that offset. -/
theorem cellOffset_cellName {c : Config} (h : c.GroupLayoutOk) {i : Nat} (hi : i < natLen) :
    cellOffset c (cellName c i) = i ∧ InSchema (cellName c i) := by
  rcases offset_cases hi with rfl | rfl | rfl | ⟨g, r, hg, hr, rfl⟩ | rfl | ⟨q, r, hq, hr, rfl⟩ | ⟨j, hj, rfl⟩ |
    ⟨j, hj, rfl⟩
  case inr.inr.inr.inl =>
    have hlt : r < c.groupLayout.length := (groupLayout_length h).symm ▸ hr
    rw [cellName_group c hg hr, cellOffset, List.getD_eq_getElem _ _ hlt, (groupLayout_nodup h).idxOf_getElem r hlt]
    exact ⟨rfl, hg⟩
  case inr.inr.inr.inr.inr.inl =>
    rw [cellName_transport c hq hr, cellOffset, idxOf_getD_transportButtons hq, idxOf_getD_buttonFields hr]
    exact ⟨rfl, trivial⟩
  case inr.inr.inr.inr.inr.inr.inl =>
    rw [cellName_custom c hj]
    exact ⟨rfl, hj⟩
  case inr.inr.inr.inr.inr.inr.inr =>
    rw [cellName_trail]
    exact ⟨rfl, hj⟩
  all_goals exact ⟨rfl, trivial⟩

/-! ## The image of a view -/

/-- A button's byte in a view is its cell's, the reserved one excepted. -/
theorem buttonByte_viewButton (c : Config) (m : Memory) (cell : ButtonField → CellName) {f : ButtonField}
    (h : f ≠ .rsvd) : buttonByte c (viewButton c m cell) f = namedByte c m (cell f) := by
  cases f with
  | type | behavior => exact enumEncode_enumDecode c _ _
  | cc | off | on => rfl
  | rsvd => exact absurd rfl h

theorem analogByte_viewAnalog (c : Config) (m : Memory) (cell : AnalogField → CellName) (f : AnalogField) :
    analogByte (viewAnalog c m cell) f = namedByte c m (cell f) := by
  cases f <;> rfl

/-- The last cell of a button is its only reserved one (30_encoding.md R86). -/
theorem buttonFieldKind_eq_rsvd_iff (f : ButtonField) : buttonFieldKind f = .rsvd ↔ f = .rsvd := by
  cases f <;> decide

theorem viewGroup_button (c : Config) (m : Memory) (g : Nat) (b : GroupButton) :
    (viewGroup c m g).button b = viewButton c m fun f => .group g (.button b f) := by
  cases b <;> rfl

theorem groupByte_viewGroup (c : Config) (m : Memory) (g : Nat) {slot : Slot} (h : slotKind slot ≠ .rsvd) :
    groupByte c (viewGroup c m g) slot = namedByte c m (.group g slot) := by
  cases slot with
  | slider f => exact analogByte_viewAnalog c m _ f
  | knob f => exact analogByte_viewAnalog c m _ f
  | button b f =>
    have hf := mt (buttonFieldKind_eq_rsvd_iff f).mpr h
    rw [groupByte, viewGroup_button, buttonByte_viewButton c m _ hf]
  | rsvd i => exact absurd rfl h

theorem transport_button_view (c : Config) (m : Memory) (b : TransportButton) :
    (view c m).transport.button b = viewButton c m (.transport b) := by
  cases b <;> rfl

/-- Every field of a view is its cell's byte, the reserved ones excepted. -/
theorem fieldByte_view (c : Config) (m : Memory) {name : CellName} (hn : InSchema name) (h : nameKind name ≠ .rsvd) :
    fieldByte c (view c m) name = namedByte c m name := by
  cases name with
  | commonChannel | transportChannel => rfl
  | commonMode | commonLed => exact enumEncode_enumDecode c _ _
  | group g slot =>
    have hg : g < 8 := hn
    rw [fieldByte, dif_pos hg, view, Vector.getElem_ofFn]
    exact groupByte_viewGroup c m g h
  | transport b f =>
    have hf := mt (buttonFieldKind_eq_rsvd_iff f).mpr h
    rw [fieldByte, transport_button_view, buttonByte_viewButton c m _ hf]
  | custom i =>
    have hi : i < 5 := hn
    rw [fieldByte, dif_pos hi, view, viewTransport, Vector.getElem_ofFn]
  | trail i => exact absurd rfl h

theorem groupByte_of_rsvd (c : Config) (x : ControllerGroup) {slot : Slot} (h : slotKind slot = .rsvd) :
    groupByte c x slot = 0 := by
  cases slot with
  | slider f | knob f => cases h
  | button b f => rw [(buttonFieldKind_eq_rsvd_iff f).mp h]; rfl
  | rsvd i => rfl

/-- The reserved cells of an image are 0. -/
theorem fieldByte_of_rsvd (c : Config) (r : SettingsRecord) {name : CellName} (h : nameKind name = .rsvd) :
    fieldByte c r name = 0 := by
  cases name with
  | commonChannel | commonMode | commonLed | transportChannel | custom i => cases h
  | group g slot =>
    rw [fieldByte]
    split
    · exact groupByte_of_rsvd c _ h
    · rfl
  | transport b f => rw [(buttonFieldKind_eq_rsvd_iff f).mp h]; rfl
  | trail i => rfl

/-- The image of a view is the cells. -/
theorem fieldByte_view_cellName {c : Config} (h : c.GroupLayoutOk) (m : Memory) {i : Nat} (hi : i < natLen) :
    fieldByte c (view c m) (cellName c i) = readCell c m i := by
  obtain ⟨hoffset, hn⟩ := cellOffset_cellName h hi
  by_cases hk : nameKind (cellName c i) = .rsvd
  · rw [fieldByte_of_rsvd c _ hk, readCell_of_rsvd c m i hk]
  · rw [fieldByte_view c m hn hk, namedByte, hoffset]

/-! ## The well-formedness of a view -/

/-- What the lookup answers is well-formed (00_scope.md R14). -/
theorem enumOk_enumDecode (c : Config) (e : Kind) (b : Byte) : enumOk c e (enumDecode c e b) := by
  cases hd : enumDecode c e b with
  | known v => exact mem_variants_of_enumDecode_known c e b v hd
  | unrecognized r =>
    obtain ⟨rfl, hnone⟩ := (enumDecode_eq_unrecognized_iff c e b r).mp hd
    exact hnone

theorem buttonOk_viewButton (c : Config) (m : Memory) (cell : ButtonField → CellName)
    (hkind : ∀ f, nameKind (cell f) = buttonFieldKind f) : buttonOk c (viewButton c m cell) := by
  have htype : nameKind (cell .type) = .assign := hkind .type
  have hbehavior : nameKind (cell .behavior) = .behav := hkind .behavior
  exact ⟨htype ▸ enumOk_enumDecode c _ _, hbehavior ▸ enumOk_enumDecode c _ _⟩

/-- A view is a well-formed record (42_record.md R134). -/
theorem recordOk_view (c : Config) (m : Memory) : recordOk c (view c m) := by
  refine ⟨enumOk_enumDecode c _ _, enumOk_enumDecode c _ _, fun g => ?_, fun b _ => ?_⟩
  · simp only [view, Fin.getElem_fin, Vector.getElem_ofFn]
    exact ⟨buttonOk_viewButton c m _ fun _ => rfl, buttonOk_viewButton c m _ fun _ => rfl,
      buttonOk_viewButton c m _ fun _ => rfl⟩
  · rw [transport_button_view]
    exact buttonOk_viewButton c m _ fun _ => rfl

/-! ## The view of an image -/

/-- A byte that encodes a well-formed value is looked up as that value. -/
theorem namedEnum_eq {c : Config} (hc : c.EnumCodeOk) {m : Memory} {name : CellName} {e : Kind} {x : EnumVal}
    (hkind : nameKind name = e) (hx : enumOk c e x) (h : namedByte c m name = enumEncode c x) :
    namedEnum c m name = x := by
  rw [namedEnum, hkind, h, enumDecode_enumEncode hc hx]

theorem viewButton_eq {c : Config} (hc : c.EnumCodeOk) {m : Memory} {cell : ButtonField → CellName} {b : Button}
    (hkind : ∀ f, nameKind (cell f) = buttonFieldKind f) (hb : buttonOk c b)
    (h : ∀ f, namedByte c m (cell f) = buttonByte c b f) : viewButton c m cell = b := by
  obtain ⟨htype, hbehavior⟩ := hb
  rw [viewButton, namedEnum_eq hc (hkind .type) htype (h .type), namedEnum_eq hc (hkind .behavior) hbehavior (h .behavior),
    h .cc, h .off, h .on]
  rfl

theorem viewAnalog_eq {c : Config} {m : Memory} {cell : AnalogField → CellName} {x : Analog}
    (h : ∀ f, namedByte c m (cell f) = analogByte x f) : viewAnalog c m cell = x := by
  rw [viewAnalog, h .type, h .cc, h .min, h .max]
  rfl

theorem viewGroup_eq {c : Config} (hc : c.EnumCodeOk) {m : Memory} {g : Nat} {x : ControllerGroup}
    (hsolo : buttonOk c x.solo) (hmute : buttonOk c x.mute) (hrecord : buttonOk c x.record)
    (h : ∀ slot, namedByte c m (.group g slot) = groupByte c x slot) : viewGroup c m g = x := by
  rw [viewGroup, viewAnalog_eq fun f => h (.slider f), viewAnalog_eq fun f => h (.knob f),
    viewButton_eq hc (fun _ => rfl) hsolo fun f => h (.button .solo f),
    viewButton_eq hc (fun _ => rfl) hmute fun f => h (.button .mute f),
    viewButton_eq hc (fun _ => rfl) hrecord fun f => h (.button .record f)]

theorem viewTransport_eq {c : Config} (hc : c.EnumCodeOk) {m : Memory} {r : SettingsRecord}
    (hok : ∀ b ∈ transportButtons, buttonOk c (r.transport.button b))
    (h : ∀ name : CellName, InSchema name → namedByte c m name = fieldByte c r name) :
    viewTransport c m = r.transport := by
  have hbutton : ∀ b ∈ transportButtons, viewButton c m (.transport b) = r.transport.button b := fun b hb =>
    viewButton_eq hc (fun _ => rfl) (hok b hb) fun f => h (.transport b f) trivial
  have hcustom : Vector.ofFn (fun i : Fin 5 => namedByte c m (.custom i.val)) = r.transport.custom := by
    refine Vector.ext fun i hi => ?_
    rw [Vector.getElem_ofFn, h (.custom i) hi, fieldByte, dif_pos hi]
  rw [viewTransport, hcustom, h .transportChannel trivial, hbutton .trackPrev (by decide), hbutton .trackNext (by decide),
    hbutton .cycle (by decide), hbutton .markerSet (by decide), hbutton .markerPrev (by decide),
    hbutton .markerNext (by decide), hbutton .rewind (by decide), hbutton .fastForward (by decide),
    hbutton .stop (by decide), hbutton .play (by decide), hbutton .record (by decide)]
  rfl

/-- Cells that read as the fields of a well-formed record are viewed as that record. -/
theorem view_eq {c : Config} (hc : c.EnumCodeOk) {m : Memory} {r : SettingsRecord} (hok : recordOk c r)
    (h : ∀ name : CellName, InSchema name → namedByte c m name = fieldByte c r name) : view c m = r := by
  obtain ⟨hmode, hled, hgroups, hbuttons⟩ := hok
  have hgroup : Vector.ofFn (fun g : Fin 8 => viewGroup c m g.val) = r.group := by
    refine Vector.ext fun g hg => ?_
    obtain ⟨hsolo, hmute, hrecord⟩ := hgroups ⟨g, hg⟩
    rw [Vector.getElem_ofFn]
    refine viewGroup_eq hc hsolo hmute hrecord fun slot => ?_
    rw [h (.group g slot) hg, fieldByte, dif_pos hg]
  rw [view, hgroup, viewTransport_eq hc hbuttons h, h .commonChannel trivial,
    namedEnum_eq hc rfl hmode (h .commonMode trivial), namedEnum_eq hc rfl hled (h .commonLed trivial)]
  rfl

/-- Settles O24: offsets and names are one-to-one, so an image read by offset is a record read by name. -/
theorem recordViewRoundTrip : Obligations.RecordViewRoundTrip := by
  intro c hvalid
  obtain ⟨-, -, -, hcode, hlayout⟩ := hvalid
  refine ⟨fun m => ⟨recordOk_view c m, ?image⟩, fun r m hok hread => view_eq hcode hok fun name hn => ?cells⟩
  case image => exact List.map_congr_left fun i hi => fieldByte_view_cellName hlayout m (List.mem_range.mp hi)
  case cells =>
    have hlt := cellOffset_lt hlayout hn
    have himage : (recordImage c r).getD (cellOffset c name) 0 = fieldByte c r (cellName c (cellOffset c name)) := by
      simp [recordImage, hlt]
    rw [namedByte, hread _ hlt, himage, cellName_cellOffset hlayout hn]

end Sys2Proof.Machine
end

section
/-! PROOFS. The codes, and one transition at a time: what each host event can do, the control instructions, the bus, and
the descriptors (30_encoding.md sections 5 and 6, 44_control.md, 20_memory.md, 42_record.md section 3). -/

namespace Sys2Proof.Machine

/-! ## Codes -/

/-- Settles O1: each constructor's code is read in its own format. -/
theorem decodeInvertsEncode : Obligations.DecodeInvertsEncode := by
  intro i
  cases i with
  | push b =>
    have hbyte : (b.setWidth 16).setWidth 8 = b := by simp
    exact congrArg (fun x => Except.ok (Instr.push x)) hbyte
  | nop | clr | unpk | pack | rdec | renc | fdec | fenc => rfl
  | u8 | mode | led | assign | behav | rsvd => rfl

/-- The eight commands in the order of their words (30_encoding.md R90). -/
def commands : List Instr := [.nop, .clr, .unpk, .pack, .rdec, .renc, .fdec, .fenc]

/-- A word below 8 is the code of its command. -/
theorem decode_cmd_of_lt {w : Word} (h : w.toNat < 8) : ∃ i, decode (.cmd w) = .ok i ∧ encode i = .cmd w := by
  obtain ⟨k, hk, rfl⟩ : ∃ k < 8, w = BitVec.ofNat 16 k := ⟨w.toNat, h, by simp⟩
  refine ⟨commands.getD k .nop, ?_⟩
  interval_cases k <;> exact ⟨rfl, rfl⟩

/-- The decoder has one reason to reject a command word (30_encoding.md R91). -/
theorem decode_cmd_error {w : Word} {e : DecodeError} (h : decode (.cmd w) = .error e) : e = .illegalCommand w := by
  change decodeCmd w = .error e at h
  unfold decodeCmd at h
  split at h
  · cases h
    rfl
  · split at h <;> cases h
    rfl

/-- Every other word is illegal (30_encoding.md R91). -/
theorem decode_cmd_eq_error_iff (w : Word) : decode (.cmd w) = .error (.illegalCommand w) ↔ 8 ≤ w.toNat := by
  cases hd : decode (.cmd w) with
  | ok i => simpa using toNat_lt_of_decode_cmd w i hd
  | error e =>
    refine iff_of_true (by rw [decode_cmd_error hd]) (Nat.not_lt.mp fun hlt => ?_)
    obtain ⟨i, hi, -⟩ := decode_cmd_of_lt hlt
    rw [hi] at hd
    cases hd

/-- A command word is the code of its instruction. -/
theorem encode_of_decode_cmd {w : Word} {i : Instr} (h : decode (.cmd w) = .ok i) : encode i = .cmd w := by
  obtain ⟨j, hj, henc⟩ := decode_cmd_of_lt (toNat_lt_of_decode_cmd w i h)
  rw [hj] at h
  cases h
  exact henc

/-- A kind code is the code of its descriptor. -/
theorem encode_of_decode_fdesc {k : BitVec 3} {i : Instr} (h : decode (.fdesc k) = .ok i) : encode i = .fdesc k := by
  change decodeKind k = .ok i at h
  unfold decodeKind at h
  split at h <;> cases h
  all_goals
    rename_i hk
    exact congrArg Code.fdesc (BitVec.eq_of_toNat_eq hk.symm)

/-- The low byte of a word, as a word. -/
theorem setWidth_byte_eq_and (d : Word) : (d.setWidth 8).setWidth 16 = d &&& 0x00FF := by
  have hmask : (d &&& 0x00FF).toNat = d.toNat % 256 := by
    rw [BitVec.toNat_and]
    exact Nat.and_two_pow_sub_one_eq_mod _ 8
  refine BitVec.eq_of_toNat_eq ?_
  rw [hmask, BitVec.toNat_setWidth, BitVec.toNat_setWidth]
  omega

/-- Settles O2: format by format. -/
theorem encodeInvertsDecode : Obligations.EncodeInvertsDecode := by
  refine ⟨fun w i h => encode_of_decode_cmd h, fun k i h => encode_of_decode_fdesc h, fun a d i h => ?_⟩
  change decodeWrite a d = .ok i at h
  unfold decodeWrite at h
  split at h
  next ha =>
    cases h
    rw [encode, setWidth_byte_eq_and, ha]
  next => cases h

/-- Settles O3: both sides say that the word is 8 or more. -/
theorem illegalWordsRejected : Obligations.IllegalWordsRejected := by
  intro w
  have hhigh : (w >>> 4).toNat = w.toNat / 16 := by rw [BitVec.toNat_ushiftRight, Nat.shiftRight_eq_div_pow]
  have hlow : (w &&& 0x000F).toNat = w.toNat % 16 := by
    rw [BitVec.toNat_and]
    exact Nat.and_two_pow_sub_one_eq_mod _ 4
  have hzero : w >>> 4 ≠ 0 ↔ w.toNat / 16 ≠ 0 := by rw [← hhigh, ne_eq, ← BitVec.toNat_inj]; rfl
  rw [decode_cmd_eq_error_iff, hzero, hlow]
  omega

/-- Settles O4: each code by evaluation of the decoder. -/
theorem writtenWordsDecode : Obligations.WrittenWordsDecode := ⟨rfl, rfl, rfl, rfl, rfl, rfl⟩

/-! ## The step -/

/-- Settles O5: a command word, a push, and a walked cell, each fetched and run. -/
theorem stepRunsDecoded : Obligations.StepRunsDecoded := by
  refine ⟨fun s w rest i hw he hi => step_cmd s w rest i hw he hi, fun s d rest i hw he hi => ?push,
    fun s w i hw hp hn hi => ?walk⟩
  case push =>
    cases hi
    rw [step_event s _ rest hw he, fetchEvent_push]
    rfl
  case walk =>
    rw [decode_kindCode] at hi
    cases hi
    rw [step_walk s w hw hp hn, exec_descriptor]

/-- The state that `CLR` leaves (44_control.md R185). -/
def State.cleared (s : State) : State :=
  { s with ilen := 0, olen := 0, status := stateIdle, errcode := 0, errstage := 0, erroff := 0, errexp := 0, erract := 0,
           warnoff := 0 }

theorem exec_clr (s : State) : exec .clr s = .next s.cleared := rfl

/-- The state that `PUSH` leaves (44_control.md R180). -/
def State.pushed (b : Byte) (s : State) : State :=
  { s with ibuf := if s.ilen.toNat < s.config.ibufCap then s.ibuf.write s.ilen.toNat b else s.ibuf,
           ilen := if s.ilen.toNat < 65535 then s.ilen + 1 else s.ilen }

theorem exec_push (b : Byte) (s : State) : exec (.push b) s = .next (s.pushed b) := rfl

/-- The command word of a data command. -/
def cmdWord : PassCmd → Word
  | .unpk => 0x0002
  | .pack => 0x0003
  | .rdec => 0x0004
  | .renc => 0x0005
  | .fdec => 0x0006
  | .fenc => 0x0007

theorem encode_passInstr (cmd : PassCmd) : encode (passInstr cmd) = .cmd (cmdWord cmd) := by cases cmd <;> rfl

/-- All that a host event can do; `s` is the state with the event taken (44_control.md R189). -/
inductive EventResult (s : State) : HostEvent → State → Prop
  | reset : EventResult s .reset s.onReset
  | read (a : Addr) (v : Word) : EventResult s (.rd a) { s with rdata := some v }
  | draw (a : Addr) (v : Word) (i : Nat) (hloc : locate s.config a = .obuf i) (hi : s.olen.toNat ≤ i) :
    EventResult s (.rd a) { s with rdata := some v, draws := s.draws + 1 }
  | illegal (w : Word) : EventResult s (.wr 0x000 w) (s.illegalCommand w)
  | nop : EventResult s (.wr 0x000 0x0000) s
  | clr : EventResult s (.wr 0x000 0x0001) s.cleared
  | command (cmd : PassCmd) : EventResult s (.wr 0x000 (cmdWord cmd)) (s.dataCommand (passBody cmd))
  | push (d : Word) : EventResult s (.wr 0x003 d) (s.pushed (d.setWidth 8))
  | writeN (a : Addr) (d : Word) (i : Nat) (hloc : locate s.config a = .n i) :
    EventResult s (.wr a d) { s with n := writeCell s.config s.n i (d.setWidth 8) }
  | writeHdr (a : Addr) (d : Word) (i : Fin 12) (hloc : locate s.config a = .hdr i) :
    EventResult s (.wr a d) { s with hdr := s.hdr.set i (d.setWidth 8) }
  | writeCfg (a : Addr) (d : Word) : EventResult s (.wr a d) { s with cfg := cfgWrite d }

/-- A write of `CMD`, by its word. -/
theorem eventResult_of_cmd {s t : State} {w : Word} (h : (State.fetchEvent (.wr 0x000 w) s).outcome = .next t) :
    EventResult s (.wr 0x000 w) t := by
  cases hd : decode (.cmd w) with
  | error e =>
    rw [fetchEvent_illegal w s e hd] at h
    cases h
    exact .illegal w
  | ok i =>
    have henc := encode_of_decode_cmd hd
    rw [fetchEvent_cmd w s i hd] at h
    rcases decode_cmd_cases w i hd with rfl | rfl | ⟨cmd, rfl⟩
    · cases henc
      cases h
      exact .nop
    · cases henc
      rw [exec_clr] at h
      cases h
      exact .clr
    · rw [encode_passInstr] at henc
      cases henc
      rw [exec_passInstr] at h
      cases h
      exact .command cmd

/-- A read, by its location. -/
theorem eventResult_of_rd {s t : State} {a : Addr} (h : s.busRead a = .next t) : EventResult s (.rd a) t := by
  rcases State.busRead_cases a s with ⟨v, hs⟩ | ⟨i, hloc, hi, hs⟩ | ⟨r, hs, -⟩
  · rw [hs] at h
    cases h
    exact .read a v
  · rw [hs] at h
    cases h
    exact .draw a _ i hloc hi
  · rw [hs] at h
    cases h

/-- A register write, by its location. -/
theorem eventResult_of_busWrite {s t : State} {a : Addr} {d : Word} (h : s.busWrite a d = .next t) :
    EventResult s (.wr a d) t := by
  rcases State.busWrite_cases a d s with ⟨i, hloc, hs⟩ | ⟨i, hloc, hs⟩ | ⟨-, hs⟩ | ⟨r, hs, -⟩
  · rw [hs] at h
    cases h
    exact .writeN a d i hloc
  · rw [hs] at h
    cases h
    exact .writeHdr a d i hloc
  · rw [hs] at h
    cases h
    exact .writeCfg a d
  · rw [hs] at h
    cases h

/-- A step of a block with no command under way is idle, or one of the transitions of the pending event. -/
theorem step_eventResult {s t : State} (hw : s.work = none) (h : step s = .next t) :
    (s.events = [] ∧ t = s) ∨ ∃ e rest, s.events = e :: rest ∧ EventResult (s.take rest) e t := by
  cases he : s.events with
  | nil =>
    rw [step_idle s hw he] at h
    cases h
    exact .inl ⟨rfl, rfl⟩
  | cons e rest =>
    refine .inr ⟨e, rest, rfl, ?_⟩
    rw [step_event s e rest hw he] at h
    cases e with
    | reset =>
      rw [fetchEvent_reset] at h
      cases h
      exact .reset
    | rd a => exact eventResult_of_rd h
    | wr a d =>
      by_cases h0 : a = 0x000
      · subst h0
        exact eventResult_of_cmd h
      by_cases h3 : a = 0x003
      · subst h3
        rw [fetchEvent_push, exec_push] at h
        cases h
        exact .push d
      rw [fetchEvent_write a d _ h0 h3] at h
      exact eventResult_of_busWrite h

/-! ## CLR and PUSH -/

/-- Settles O8: word 1 is `CLR`'s row; the rest is read off its meaning. -/
theorem clrStartsNewInput : Obligations.ClrStartsNewInput :=
  ⟨rfl, fun s => ⟨s.cleared, exec_clr s, rfl, rfl, rfl, rfl, rfl, rfl, rfl, rfl, rfl, rfl, rfl, rfl, rfl, rfl, rfl, rfl,
    rfl, rfl, rfl⟩⟩

/-- `PUSH` writes the cell at `ILEN`, if the buffer has it. -/
theorem State.pushed_ibuf_read (b : Byte) (s : State) (a : Nat) :
    (s.pushed b).ibuf.read a = if a = s.ilen.toNat ∧ s.ilen.toNat < s.config.ibufCap then b else s.ibuf.read a := by
  change (if s.ilen.toNat < s.config.ibufCap then s.ibuf.write s.ilen.toNat b else s.ibuf).read a = _
  by_cases hcap : s.ilen.toNat < s.config.ibufCap
  · rw [if_pos hcap, Memory.read_write]
    simp only [hcap, and_true]
  · rw [if_neg hcap, if_neg fun h => hcap h.2]

/-- `PUSH` counts up to 65535 (10_state.md R30). -/
theorem State.pushed_ilen_toNat (b : Byte) (s : State) : (s.pushed b).ilen.toNat = min (s.ilen.toNat + 1) 65535 := by
  have hlt := s.ilen.isLt
  rw [State.pushed]
  split
  next h =>
    rw [BitVec.toNat_add]
    simp only [BitVec.ofNat_eq_ofNat, BitVec.toNat_ofNat]
    omega
  next h => dsimp only; omega

/-- Settles O9: the stored cell, the count, and the frame. -/
theorem pushStoresAndCounts : Obligations.PushStoresAndCounts := fun b s =>
  ⟨s.pushed b, exec_push b s, s.pushed_ibuf_read b, s.pushed_ilen_toNat b, rfl, rfl, rfl, rfl, rfl, rfl, rfl, rfl, rfl, rfl,
    rfl, rfl, rfl, rfl, rfl, rfl, rfl⟩

/-- Settles O10: of all the transitions of an event only three touch `ILEN`. -/
theorem ilenChangesOnlyByResetClrPush : Obligations.IlenChangesOnlyByResetClrPush := by
  intro s t hw h hne
  rcases step_eventResult hw h with ⟨-, rfl⟩ | ⟨e, rest, he, hres⟩
  · exact absurd rfl hne
  refine ⟨rest, ?_⟩
  cases hres with
  | reset => exact .inl ⟨he, rfl⟩
  | clr => exact .inr (.inl ⟨he, rfl⟩)
  | push d =>
    refine .inr (.inr ⟨d, he, ?_⟩)
    have hlt : s.ilen.toNat < 65535 := by
      by_contra hsat
      exact hne (if_neg hsat)
    rw [State.pushed_ilen_toNat, State.take_ilen]
    omega
  | command cmd => exact absurd (State.dataCommand_frame (passBody cmd) (s.take rest)).2.2.1 hne
  | read | draw | illegal | nop | writeN | writeHdr | writeCfg => exact absurd rfl hne

/-! ## The record and the header -/

/-- Only `RDEC` and `FDEC` stage an image. -/
theorem passBody_image_eq_none {cmd : PassCmd} {s : State} {w : Commit} (hr : cmd ≠ .rdec) (hf : cmd ≠ .fdec)
    (h : passBody cmd s = .ok w) : w.image = none := by
  cases cmd with
  | rdec => exact absurd rfl hr
  | fdec => exact absurd rfl hf
  | renc | fenc => exact (passBody_encode_eq_ok rfl h).2
  | unpk =>
    change bodyUnpk s = .ok w at h
    unfold bodyUnpk at h
    split at h <;> cases h
    rfl
  | pack =>
    have hbody := (encodeBody_eq_ok h).2
    unfold bodyPack at hbody
    split at hbody <;> cases hbody
    rfl

/-- Only `FDEC` stages a header. -/
theorem passBody_hdr_eq_none {cmd : PassCmd} {s : State} {w : Commit} (hf : cmd ≠ .fdec)
    (h : passBody cmd s = .ok w) : w.hdr = none := by
  cases cmd with
  | fdec => exact absurd rfl hf
  | rdec =>
    obtain ⟨-, -, -, rfl⟩ := (bodyRdec_eq_ok s w).mp h
    rfl
  | renc | fenc => exact (passBody_encode_eq_ok rfl h).1
  | unpk =>
    change bodyUnpk s = .ok w at h
    unfold bodyUnpk at h
    split at h <;> cases h
    rfl
  | pack =>
    have hbody := (encodeBody_eq_ok h).2
    unfold bodyPack at hbody
    split at hbody <;> cases hbody
    rfl

/-- The record changes in no other data command. -/
theorem dataCommand_n {cmd : PassCmd} (hr : cmd ≠ .rdec) (hf : cmd ≠ .fdec) (s : State) :
    (s.dataCommand (passBody cmd)).n = s.n := by
  rcases State.dataCommand_cases (passBody cmd) s with ⟨w, hw, ht⟩ | ⟨e, -, ht⟩
  · rw [ht, State.commit_n_of_none w _ (passBody_image_eq_none hr hf hw), State.prologue_n]
  · rw [ht, State.errorEntry_n, State.prologue_n]

/-- The header changes in no other data command. -/
theorem dataCommand_hdr {cmd : PassCmd} (hf : cmd ≠ .fdec) (s : State) :
    (s.dataCommand (passBody cmd)).hdr = s.hdr := by
  rcases State.dataCommand_cases (passBody cmd) s with ⟨w, hw, ht⟩ | ⟨e, -, ht⟩
  · rw [ht, State.commit_hdr, passBody_hdr_eq_none hf hw, Option.getD_none, State.prologue_hdr]
  · rw [ht, State.errorEntry_hdr, State.prologue_hdr]

/-- A cell of the record has one address (20_memory.md R61). -/
theorem addr_of_locate_n {c : Config} {a : Addr} {i : Nat} (h : locate c a = .n i) :
    a = BitVec.ofNat 12 (0x200 + i) ∧ i < natLen := by
  have hcases := locate_cases c a
  simp only [h, reduceCtorEq, false_and, exists_const, or_false, false_or, Loc.n.injEq] at hcases
  obtain ⟨j, rfl, hj, ha⟩ := hcases
  exact ⟨BitVec.eq_of_toNat_eq (by rw [ha, toNat_addr _ (by omega)]), hj⟩

theorem addr_of_locate_hdr {c : Config} {a : Addr} {i : Fin 12} (h : locate c a = .hdr i) :
    a = BitVec.ofNat 12 (0x010 + i.val) := by
  have hcases := locate_cases c a
  simp only [h, reduceCtorEq, false_and, exists_const, or_false, false_or, Loc.hdr.injEq] at hcases
  obtain ⟨j, rfl, ha⟩ := hcases
  exact BitVec.eq_of_toNat_eq (by rw [ha, toNat_addr _ (by omega)])

theorem addr_of_locate_tag {c : Config} {a : Addr} {i : Nat} (h : locate c a = .tag i) :
    a = BitVec.ofNat 12 (0x400 + i) ∧ i < natLen := by
  have hcases := locate_cases c a
  simp only [h, reduceCtorEq, false_and, exists_const, or_false, false_or, Loc.tag.injEq] at hcases
  obtain ⟨j, rfl, hj, ha⟩ := hcases
  exact ⟨BitVec.eq_of_toNat_eq (by rw [ha, toNat_addr _ (by omega)]), hj⟩

theorem addr_of_locate_obuf {c : Config} {a : Addr} {i : Nat} (h : locate c a = .obuf i) :
    a.toNat = 0x800 + i ∧ i < c.obufCap := by
  have hcases := locate_cases c a
  simp only [h, reduceCtorEq, false_and, exists_const, or_false, false_or, Loc.obuf.injEq] at hcases
  obtain ⟨j, rfl, hj, ha⟩ := hcases
  exact ⟨ha, hj⟩

/-- Settles O49: the transitions of an event that write `N` or `HDR`, each at its own address or word. -/
theorem recordChangesOnlyBy : Obligations.RecordChangesOnlyBy := by
  intro s t e rest hw he h
  rcases step_eventResult hw h with ⟨hnil, -⟩ | ⟨e', rest', he', hres⟩
  · rw [he] at hnil
    cases hnil
  rw [he] at he'
  cases he'
  constructor
  · intro i hne
    cases hres with
    | reset => exact .inl rfl
    | command cmd =>
      by_cases hr : cmd = .rdec
      · subst hr
        exact .inr (.inl rfl)
      by_cases hf : cmd = .fdec
      · subst hf
        exact .inr (.inr (.inl rfl))
      have hconfig := (State.dataCommand_frame (passBody cmd) (s.take rest)).1
      rw [hconfig, dataCommand_n hr hf] at hne
      exact absurd rfl hne
    | writeN a d j hloc =>
      refine .inr (.inr (.inr ⟨d, ?_⟩))
      obtain ⟨rfl, -⟩ := addr_of_locate_n hloc
      have hij : i = j := by
        by_contra hij
        exact hne ((readCell_writeCell _ _ _ _ _).trans (if_neg fun h => hij h.1))
      rw [hij]
    | read | draw | illegal | nop | clr | push | writeHdr | writeCfg => exact absurd rfl hne
  · intro i hne
    cases hres with
    | reset => exact .inl rfl
    | command cmd =>
      by_cases hf : cmd = .fdec
      · subst hf
        exact .inr (.inl rfl)
      rw [dataCommand_hdr hf] at hne
      exact absurd rfl hne
    | writeHdr a d j hloc =>
      refine .inr (.inr ⟨d, ?_⟩)
      have hij : j = i := by
        by_contra hij
        exact hne (Vector.getElem_set_ne j.isLt i.isLt fun h => hij (Fin.ext h))
      rw [addr_of_locate_hdr hloc, hij]
    | read | draw | illegal | nop | clr | push | writeN | writeCfg => exact absurd rfl hne

/-! ## The bus -/

/-- Settles O50: location by location, then address by address. -/
theorem registerMapOneToOne : Obligations.RegisterMapOneToOne := by
  intro c hcap
  refine ⟨fun l hl => ?_, fun a ha => ?_⟩
  · cases l with
    | hdr i => exact locate_hdr c i
    | n i => exact locate_n c i (by simpa [locMapped] using hl)
    | tag i => exact locate_tag c i (by simpa [locMapped] using hl)
    | obuf i =>
      have hi : i < c.obufCap := by simpa [locMapped] using hl
      exact (locate_obuf c i (by omega)).trans (if_pos hi)
    | unmapped => cases hl
    | cmd | status | cfg | din | ilen | olen | errcode | errstage | erroff | errexp | erract | warnoff => rfl
  · cases hloc : locate c a with
    | n i =>
      obtain ⟨rfl, hi⟩ := addr_of_locate_n hloc
      exact ⟨decide_eq_true hi, rfl⟩
    | tag i =>
      obtain ⟨rfl, hi⟩ := addr_of_locate_tag hloc
      exact ⟨decide_eq_true hi, rfl⟩
    | hdr i => exact ⟨rfl, (addr_of_locate_hdr hloc).symm⟩
    | obuf i =>
      obtain ⟨haddr, hi⟩ := addr_of_locate_obuf hloc
      refine ⟨decide_eq_true hi, ?_⟩
      rw [locAddr, ← haddr, BitVec.ofNat_toNat, BitVec.setWidth_eq]
    | unmapped => exact absurd hloc ha
    | cmd | status | cfg | din | ilen | olen | errcode | errstage | erroff | errexp | erract | warnoff =>
      have hcases := locate_cases c a
      simp only [hloc, reduceCtorEq, false_and, exists_const, or_false, false_or, true_and] at hcases
      exact ⟨rfl, hcases.symm⟩

/-- Settles O53: a read answers a word, or draws a byte at or above `OLEN`. -/
theorem readsHaveNoSideEffect : Obligations.ReadsHaveNoSideEffect := by
  intro s t a rest hw he h
  rw [step_rd s a rest hw he] at h
  cases eventResult_of_rd h with
  | read _ v => exact ⟨rfl, nofun, fun hne => absurd rfl hne⟩
  | draw _ v i hloc hi =>
    refine ⟨rfl, nofun, fun _ => ?_⟩
    rw [(addr_of_locate_obuf hloc).1]
    exact Nat.add_le_add_left hi _

/-! ## The descriptors -/

/-- A cell of a walk that the rule passes. -/
theorem State.walkCell_of_ok {s : State} {w : Work} {b : Byte} (hw : s.work = some w) (hb : w.image[w.np]? = some b)
    {rule : Config → Bool → Nat → Byte → Except Err Bool} {u : Bool} (h : rule s.config s.es w.np b = .ok u) :
    s.walkCell rule =
      .next { s with work := some { w with np := w.np + 1, warn := noteWarn w.warn w.np u } } := by
  simp only [State.walkCell, (State.cell_eq_some s w b).mpr ⟨hw, hb⟩, h]

/-- A cell of a walk that the rule rejects. -/
theorem State.walkCell_of_error {s : State} {w : Work} {b : Byte} (hw : s.work = some w) (hb : w.image[w.np]? = some b)
    {rule : Config → Bool → Nat → Byte → Except Err Bool} {e : Err} (h : rule s.config s.es w.np b = .error e) :
    s.walkCell rule = .next (s.errorEntry e) := by
  simp only [State.walkCell, (State.cell_eq_some s w b).mpr ⟨hw, hb⟩, h]

/-- A byte that the rule accepts moves `NP` on by one. -/
theorem State.walkCell_accepts {s : State} {w : Work} {b : Byte} (hw : s.work = some w) (hb : w.image[w.np]? = some b)
    {rule : Config → Bool → Nat → Byte → Except Err Bool} (h : rule s.config s.es w.np b = .ok false) :
    s.walkCell rule = .next { s with work := some { w with np := w.np + 1 } } := by
  rw [State.walkCell_of_ok hw hb h, noteWarn_false]

/-- A byte that the rule passes as unrecognised is noted, if no lower one was. -/
theorem State.walkCell_passes {s : State} {w : Work} {b : Byte} (hw : s.work = some w) (hb : w.image[w.np]? = some b)
    {rule : Config → Bool → Nat → Byte → Except Err Bool} (h : rule s.config s.es w.np b = .ok true) :
    s.walkCell rule = .next { s with work := some { w with np := w.np + 1, warn := some (w.warn.getD w.np) } } := by
  have hnote : noteWarn w.warn w.np true = some (w.warn.getD w.np) := by cases w.warn <;> rfl
  rw [State.walkCell_of_ok hw hb h, hnote]

/-- A byte that the rule rejects ends the command. -/
theorem State.walkCell_raises {s : State} {w : Work} {b : Byte} (hw : s.work = some w) (hb : w.image[w.np]? = some b)
    {rule : Config → Bool → Nat → Byte → Except Err Bool} {e : Err} (h : rule s.config s.es w.np b = .error e) :
    ∃ t, s.walkCell rule = .next t ∧
      s.Failed t (errCode e.kind) (stageCode e.stage) e.off e.exp e.act :=
  ⟨_, State.walkCell_of_error hw hb h, s.errorEntry_failed e⟩

/-- The enumeration descriptors apply one rule, each to its own kind. -/
theorem exec_enum_descriptor (s : State) :
    ∀ x ∈ [(Instr.mode, Kind.mode), (.led, .led), (.assign, .assign), (.behav, .behav)],
      exec x.1 s = s.walkCell (ruleEnum x.2) := by
  simp only [List.forall_mem_cons, List.not_mem_nil, false_imp_iff, implies_true, and_true]
  exact ⟨rfl, rfl, rfl, rfl⟩

/-- The rule of an enumeration on a variant's code. -/
theorem ruleEnum_of_recognised {e : Kind} {c : Config} {es : Bool} {np : Nat} {b : Byte} {v : Variant}
    (hv : v ∈ e.variants) (hb : c.enumCode.code v = b) : ruleEnum e c es np b = .ok false := by
  rw [ruleEnum_eq, if_neg fun hnone => hnone v hv hb]

/-- The rule of an enumeration on any other byte. -/
theorem ruleEnum_of_unrecognised {e : Kind} {c : Config} {np : Nat} {b : Byte} (es : Bool)
    (h : ∀ v ∈ e.variants, c.enumCode.code v ≠ b) :
    ruleEnum e c es np b =
      if es then .error ⟨.unrecognizedEnum, .natural, word np, (kindCode e).setWidth 16, b.setWidth 16⟩ else .ok true := by
  rw [ruleEnum_eq, if_pos h]

/-- Settles O29: each rule's answer on a byte that it accepts. -/
theorem descriptorsAdvance : Obligations.DescriptorsAdvance := by
  intro s w b hw hb
  refine ⟨State.walkCell_accepts (rule := ruleU8) hw hb rfl,
    fun h0 => State.walkCell_accepts (rule := ruleRsvd) hw hb (if_pos h0), fun x hx => ?_⟩
  rw [exec_enum_descriptor s x hx]
  refine ⟨fun v hv hcode => State.walkCell_accepts hw hb (ruleEnum_of_recognised hv hcode), fun hnone hes => ?_⟩
  exact State.walkCell_passes hw hb (by rw [ruleEnum_of_unrecognised _ hnone, hes]; rfl)

/-- Settles O30: each rule's answer on a byte that it rejects. -/
theorem descriptorsRaise : Obligations.DescriptorsRaise := by
  intro s w b hw hb
  refine ⟨fun h0 => State.walkCell_raises (rule := ruleRsvd) hw hb (if_neg h0), ?_⟩
  have hraise : ∀ e : Kind, (∀ v ∈ e.variants, s.config.enumCode.code v ≠ b) → s.es = true →
      ∃ t, s.walkCell (ruleEnum e) = .next t ∧
        s.Failed t 4 3 (word w.np) ((kindCode e).setWidth 16) (b.setWidth 16) := fun e hnone hes =>
    State.walkCell_raises hw hb
      (e := ⟨.unrecognizedEnum, .natural, word w.np, (kindCode e).setWidth 16, b.setWidth 16⟩)
      (by rw [ruleEnum_of_unrecognised _ hnone, if_pos hes])
  simp only [List.forall_mem_cons, List.not_mem_nil, false_imp_iff, implies_true, and_true]
  exact ⟨hraise .mode, hraise .led, hraise .assign, hraise .behav⟩

/-- Settles O31: without a cell no rule is applied. -/
theorem descriptorNeedsCell : Obligations.DescriptorNeedsCell := by
  intro s h
  have hcell : s.cell = none := by
    rw [Option.eq_none_iff_forall_not_mem]
    rintro ⟨w, b⟩ hwb
    obtain ⟨hw, hb⟩ := (State.cell_eq_some s w b).mp hwb
    rw [h w hw] at hb
    cases hb
  have hrefused : ∀ rule, s.walkCell rule = .refused .noCell := fun rule => by rw [State.walkCell, hcell]
  simp only [List.forall_mem_cons, List.not_mem_nil, false_imp_iff, implies_true, and_true]
  exact ⟨hrefused ruleU8, hrefused ruleMode, hrefused ruleLed, hrefused ruleAssign, hrefused ruleBehav, hrefused ruleRsvd⟩

end Sys2Proof.Machine
end

section
/-! PROOFS. The invariant at reset and after every host event (10_state.md sections 2 to 6 and 10). -/

namespace Sys2Proof.Machine

/-! ## What an event leaves alone -/

/-- The part of the invariant that speaks of the configuration, the register files, the buffers and `CFG`. -/
structure State.Stored (s : State) : Prop where
  config : s.config.Valid
  n      : s.NOk
  ibuf   : s.IbufOk
  obuf   : s.ObufOk
  cfg    : s.cfg.toNat ≤ 1

theorem State.Inv.stored {s : State} (h : s.Inv) : s.Stored := ⟨h.config, h.n, h.ibuf, h.obuf, h.cfg⟩

theorem State.Stored.prologue {s : State} (h : s.Stored) : s.prologue.Stored := ⟨h.config, h.n, h.ibuf, h.obuf, h.cfg⟩

/-- The model's own fields are outside the invariant. -/
theorem State.Inv.with_model_fields {s : State} (h : s.Inv) (es : List HostEvent) (v : Option Word) (k : Nat) :
    State.Inv { s with events := es, rdata := v, draws := k } :=
  ⟨h.config, h.n, h.ibuf, h.obuf, h.cfg, h.status, h.err, h.warn, h.olen, h.work⟩

/-- A block without a command under way. -/
theorem State.workOk_of_none {s : State} (h : s.work = none) : s.WorkOk := by
  intro w hw
  rw [h] at hw
  cases hw

/-! ## Reset -/

theorem inv_resetOf {c : Config} (h : c.Valid) : (State.resetOf c).Inv where
  config := h
  n := ⟨Memory.wf_nil, by simp⟩
  ibuf := ⟨Memory.wf_nil, by simp⟩
  obuf := ⟨Memory.wf_nil, by simp⟩
  cfg := Nat.zero_le _
  status := .inl rfl
  err := ⟨Nat.zero_le _, Nat.zero_le _, by simp, fun _ => ⟨rfl, rfl, rfl, rfl⟩⟩
  warn := ⟨Nat.zero_lt_succ 338, fun _ => rfl⟩
  olen := ⟨Nat.zero_le _, fun _ => rfl⟩
  work := State.workOk_of_none rfl

theorem reference_valid : Config.reference.Valid := by decide +kernel

/-- Settles O56: every register is 0 and nothing is stored. -/
theorem resetMeetsInvariant : Obligations.ResetMeetsInvariant :=
  ⟨fun _ h => inv_resetOf h, inv_resetOf reference_valid⟩

/-! ## The error entry -/

theorem errCode_ne_zero (k : ErrKind) : errCode k ≠ 0 := by cases k <;> decide

theorem stageCode_le (g : Stage) : (stageCode g).toNat ≤ 4 := by cases g <;> decide

/-- An error entry meets the invariant, whatever the result registers were. -/
theorem State.Stored.errorEntry {s : State} (h : s.Stored) (e : Err) : (s.errorEntry e).Inv where
  config := h.config
  n := h.n
  ibuf := h.ibuf
  obuf := h.obuf
  cfg := h.cfg
  status := .inr (.inr (.inl rfl))
  err := ⟨(errCode_bounds _).2, stageCode_le _, iff_of_true (errCode_ne_zero _) rfl,
    fun h0 => absurd h0 (errCode_ne_zero _)⟩
  warn := ⟨Nat.zero_lt_succ 338, fun _ => rfl⟩
  olen := ⟨Nat.zero_le _, fun _ => rfl⟩
  work := State.workOk_of_none rfl

/-! ## The commit -/

/-- What a command commits keeps to the sizes of the register files and the buffers. -/
structure Commit.Fits (c : Config) (w : Commit) : Prop where
  out   : w.out.length ≤ c.obufCap
  image : ∀ bs ∈ w.image, bs.length ≤ natLen
  warn  : ∀ i ∈ w.warn, i < natLen

/-- An image gives no entry to a hardwired cell (log 14). -/
theorem kindAt_of_mem_entries_hardwired (c : Config) (a : Nat) (bs : List Byte) :
    ∀ x ∈ Memory.entries a (hardwired c a bs), kindAt c x.1 ≠ .rsvd := by
  induction bs generalizing a with
  | nil => simp [hardwired, Memory.entries]
  | cons b bs ih =>
    intro x hx
    rw [hardwired, Memory.entries] at hx
    by_cases hzero : (if kindAt c a = .rsvd then 0 else b) = Memory.unlisted
    · rw [if_pos hzero] at hx
      exact ih (a + 1) x hx
    · rw [if_neg hzero] at hx
      rcases List.mem_cons.mp hx with rfl | hx
      · exact fun hk => hzero (if_pos hk)
      · exact ih (a + 1) x hx

/-- The record after an image is written. -/
theorem mem_writeCells {c : Config} {m : Memory} {bs : List Byte} {x : Host.Cell} (h : x ∈ writeCells c m bs) :
    x ∈ m ∨ (x.1 < bs.length ∧ kindAt c x.1 ≠ .rsvd) := by
  unfold writeCells Memory.store at h
  simp only [List.mem_append, List.mem_filter] at h
  rcases h with (⟨hx, -⟩ | hx) | ⟨hx, -⟩
  · exact .inl hx
  · have hlt := (Memory.entries_mem _ _ x hx).2.1
    rw [hardwired_length] at hlt
    exact .inr ⟨by omega, kindAt_of_mem_entries_hardwired c 0 bs x hx⟩
  · exact .inl hx

theorem State.NOk.commit {s : State} (h : s.NOk) {w : Commit} (hw : ∀ bs ∈ w.image, bs.length ≤ natLen) :
    (s.commit w).NOk := by
  cases hi : w.image with
  | none =>
    have hn := State.commit_n_of_none w s hi
    unfold State.NOk
    rw [hn]
    exact h
  | some bs =>
    have hn := State.commit_n_of_some w s bs hi
    have hlen := hw bs hi
    unfold State.NOk
    rw [hn]
    refine ⟨Memory.wf_store _ _ _ h.1, fun x hx => ?_⟩
    rcases mem_writeCells hx with hx | ⟨hlt, hk⟩
    · exact h.2 x hx
    · exact ⟨hlt.trans_le hlen, hk⟩

theorem State.ObufOk.commit {s : State} (h : s.ObufOk) {w : Commit} (hw : w.out.length ≤ s.config.obufCap) :
    (s.commit w).ObufOk := by
  refine ⟨Memory.wf_store _ _ _ h.1, fun x hx => ?_⟩
  rcases Memory.mem_store _ _ _ x hx with hx | ⟨-, hlt, -⟩
  · exact h.2 x hx
  · exact (Nat.zero_add w.out.length ▸ hlt).trans_le hw

/-- The bounds on the buffers' sizes (00_scope.md R9), as they are used: the output buffer holds an input unpacked or
copied, a record and a frame, and its size is a word. -/
theorem caps_of_valid {c : Config} (h : c.Valid) :
    c.ibufCap ≤ c.obufCap ∧ natLen ≤ c.obufCap ∧ frameLen ≤ c.obufCap ∧ c.obufCap ≤ 2048 := by
  obtain ⟨⟨hlow, -⟩, ⟨hobuf, hmax⟩, -⟩ := h
  unfold natLen frameLen
  omega

/-- The error registers are clear, as the prologue leaves them. -/
abbrev State.NoError (s : State) : Prop :=
  s.errcode = 0 ∧ s.errstage = 0 ∧ s.erroff = 0 ∧ s.errexp = 0 ∧ s.erract = 0

/-- A success has `STATUS` 1 or 5 (10_state.md R28). -/
theorem okStatus_cases (warn : Option Nat) :
    (warn = none ∧ okStatus warn = 1) ∨ (∃ i, warn = some i ∧ okStatus warn = 5) := by
  cases warn with
  | none => exact .inl ⟨rfl, rfl⟩
  | some i => exact .inr ⟨i, rfl, rfl⟩

/-- A commit that fits meets the invariant. -/
theorem State.Stored.commit {s : State} (h : s.Stored) (herr : s.NoError) {w : Commit} (hw : w.Fits s.config) :
    (s.commit w).Inv := by
  obtain ⟨h1, h2, h3, h4, h5⟩ := herr
  have holen : (s.commit w).olen.toNat = w.out.length :=
    word_toNat (by have := caps_of_valid h.config; have := hw.out; omega)
  have hstatus := okStatus_cases w.warn
  refine ⟨h.config, h.n.commit hw.image, h.ibuf, h.obuf.commit hw.out, h.cfg, ?status, ?err, ?warn, ?olen,
    State.workOk_of_none rfl⟩
  case status =>
    rcases hstatus with ⟨-, hs⟩ | ⟨i, -, hs⟩
    · exact .inr (.inl hs)
    · exact .inr (.inr (.inr hs))
  case err =>
    refine ⟨?_, ?_, ?_, fun _ => ⟨h2, h3, h4, h5⟩⟩
    · rw [State.commit_errcode, h1]; decide
    · rw [State.commit_errstage, h2]; decide
    · exact iff_of_false (not_not.mpr h1) (okStatus_ne_err w.warn)
  case warn =>
    rcases hstatus with ⟨hnone, -⟩ | ⟨i, hsome, hs⟩
    · rw [State.WarnOk, State.commit_warnoff, hnone]
      exact ⟨by decide, fun _ => rfl⟩
    · have hi := hw.warn i hsome
      refine ⟨?_, fun hne => absurd hs hne⟩
      rw [State.commit_warnoff, hsome, okWarnoff, word_toNat (hi.trans (by decide))]
      exact hi
  case olen =>
    refine ⟨holen ▸ hw.out, ?_⟩
    rw [State.commit_status]
    rcases hstatus with ⟨-, hs⟩ | ⟨i, -, hs⟩ <;> rw [hs] <;> simp

/-! ## What each body commits -/

/-- A warning stands inside the walked sequence (42_record.md R142). -/
theorem lt_length_of_recWalk {c : Config} {es : Bool} {bs : List Byte} {i : Nat}
    (h : recWalk c es bs = .ok (some i)) : i < bs.length := by
  rw [← map_range_getD bs, recWalk_eq_ok_iff, ← firstUnrecognised_iff] at h
  exact (h.2.2 i rfl).1

/-- Every body's commit fits a valid configuration. -/
theorem passBody_fits {cmd : PassCmd} {s : State} {w : Commit} (hc : s.config.Valid) (h : passBody cmd s = .ok w) :
    w.Fits s.config := by
  obtain ⟨hibuf, hnat, hframe, -⟩ := caps_of_valid hc
  have hwarn : ∀ {bs : List Byte} {warn : Option Nat}, bs.length = natLen → recWalk s.config s.es bs = .ok warn →
      ∀ i ∈ warn, i < natLen := by
    rintro bs _ hlen hwalk i rfl
    exact hlen ▸ lt_length_of_recWalk hwalk
  cases cmd with
  | unpk =>
    cases hcheck : capacityCheck s with
    | some e => simp [passBody, bodyUnpk, hcheck] at h
    | none =>
      have hfit := (capacityCheck_eq_none s).mp hcheck
      rw [show passBody .unpk s = _ from bodyUnpk_of_fits s hfit] at h
      cases h
      refine ⟨?_, nofun, nofun⟩
      rw [unpack_length, State.input_length]
      exact (ulen_le _).trans (hfit.trans hibuf)
  | pack =>
    have hbody := (encodeBody_eq_ok h).2
    cases hcheck : capacityCheck s with
    | some e => simp [bodyPack, hcheck] at hbody
    | none =>
      have hfit := (capacityCheck_eq_none s).mp hcheck
      rw [bodyPack_of_fits s hfit] at hbody
      cases hbody
      refine ⟨?_, nofun, nofun⟩
      rw [pack_length, State.input_length]
      exact (plen_le_obufCap hc.2.1 hfit).1
  | rdec =>
    obtain ⟨hlen, warn, hwalk, rfl⟩ := (bodyRdec_eq_ok s w).mp h
    have hinput : s.input.length = natLen := (State.input_length s).trans hlen
    exact ⟨Nat.zero_le _, by rintro _ ⟨⟩; exact hinput.le, hwarn hinput hwalk⟩
  | fdec =>
    obtain ⟨hf, warn, hwalk, rfl⟩ := (bodyFdec_eq_ok_iff s w).mp h
    have hlen := unpack_payload_length ((State.input_length s).trans (length_eq_of_frameCheck_eq_none hf))
    exact ⟨hlen.trans_le hnat, by rintro _ ⟨⟩; exact hlen.le, hwarn hlen hwalk⟩
  | renc =>
    obtain ⟨warn, hwalk, rfl⟩ := (bodyRenc_eq_ok s w).mp (encodeBody_eq_ok h).2
    exact ⟨s.image_length.trans_le hnat, nofun, hwarn s.image_length hwalk⟩
  | fenc =>
    obtain ⟨-, warn, hwalk, rfl⟩ := (bodyFenc_eq_ok s w).mp (encodeBody_eq_ok h).2
    exact ⟨(frameBuild_length s.image_length).trans_le hframe, nofun, hwarn s.image_length hwalk⟩

/-- A data command keeps the invariant. -/
theorem State.Stored.dataCommand {s : State} (h : s.Stored) (cmd : PassCmd) :
    (s.dataCommand (passBody cmd)).Inv := by
  rcases State.dataCommand_cases (passBody cmd) s with ⟨w, hw, ht⟩ | ⟨e, -, ht⟩
  · rw [ht]
    exact h.prologue.commit ⟨rfl, rfl, rfl, rfl, rfl⟩ (passBody_fits h.config hw)
  · rw [ht]
    exact h.prologue.errorEntry e

/-! ## The host's writes -/

theorem State.Inv.cleared {s : State} (h : s.Inv) (hw : s.work = none) : s.cleared.Inv where
  config := h.config
  n := h.n
  ibuf := h.ibuf
  obuf := h.obuf
  cfg := h.cfg
  status := .inl rfl
  err := ⟨Nat.zero_le _, Nat.zero_le _, iff_of_false (not_not.mpr rfl) nofun, fun _ => ⟨rfl, rfl, rfl, rfl⟩⟩
  warn := ⟨Nat.zero_lt_succ 338, fun _ => rfl⟩
  olen := ⟨Nat.zero_le _, fun _ => rfl⟩
  work := State.workOk_of_none hw

theorem State.IbufOk.pushed {s : State} (h : s.IbufOk) (b : Byte) : (s.pushed b).IbufOk := by
  by_cases hlt : s.ilen.toNat < s.config.ibufCap
  · have hbuf : (s.pushed b).ibuf = s.ibuf.write s.ilen.toNat b := if_pos hlt
    rw [State.IbufOk, hbuf]
    refine ⟨Memory.wf_write _ _ _ h.1, fun x hx => ?_⟩
    rcases Memory.mem_write _ _ _ x hx with hx | hx
    · exact h.2 x hx
    · exact hx ▸ hlt
  · have hbuf : (s.pushed b).ibuf = s.ibuf := if_neg hlt
    rw [State.IbufOk, hbuf]
    exact h

theorem State.Inv.pushed {s : State} (h : s.Inv) (hw : s.work = none) (b : Byte) : (s.pushed b).Inv :=
  ⟨h.config, h.n, h.ibuf.pushed b, h.obuf, h.cfg, h.status, h.err, h.warn, h.olen, State.workOk_of_none hw⟩

/-- A write of a cell stores in no hardwired cell (10_state.md R23, log 14). -/
theorem State.NOk.writeCell {s : State} (h : s.NOk) (i : Nat) (b : Byte) :
    State.NOk { s with n := writeCell s.config s.n i b } := by
  by_cases hi : i < natLen ∧ kindAt s.config i ≠ .rsvd
  · have hcell : Machine.writeCell s.config s.n i b = s.n.write i b := if_pos hi
    rw [hcell]
    refine ⟨Memory.wf_write _ _ _ h.1, fun x hx => ?_⟩
    rcases Memory.mem_write _ _ _ x hx with hx | hx
    · exact h.2 x hx
    · exact hx ▸ hi
  · have hcell : Machine.writeCell s.config s.n i b = s.n := if_neg hi
    rw [hcell]
    exact h

theorem cfgWrite_toNat_le (d : Word) : (cfgWrite d).toNat ≤ 1 := by
  rw [cfgWrite_eq_ite]
  split <;> decide

/-- A host event keeps the invariant. -/
theorem EventResult.inv {s t : State} {e : HostEvent} (h : EventResult s e t) (hs : s.Inv) (hw : s.work = none) :
    t.Inv := by
  have hwork : ∀ {t : State}, t.work = s.work → t.WorkOk := fun ht => State.workOk_of_none (ht.trans hw)
  cases h with
  | reset => exact (inv_resetOf hs.config).with_model_fields _ _ _
  | read a v => exact hs.with_model_fields _ _ _
  | draw a v i => exact hs.with_model_fields _ _ _
  | illegal w => exact hs.stored.prologue.errorEntry _
  | nop => exact hs
  | clr => exact hs.cleared hw
  | command cmd => exact hs.stored.dataCommand cmd
  | push d => exact hs.pushed hw _
  | writeN a d i =>
    exact ⟨hs.config, hs.n.writeCell i _, hs.ibuf, hs.obuf, hs.cfg, hs.status, hs.err, hs.warn, hs.olen, hwork rfl⟩
  | writeHdr a d i =>
    exact ⟨hs.config, hs.n, hs.ibuf, hs.obuf, hs.cfg, hs.status, hs.err, hs.warn, hs.olen, hwork rfl⟩
  | writeCfg a d =>
    exact ⟨hs.config, hs.n, hs.ibuf, hs.obuf, cfgWrite_toNat_le d, hs.status, hs.err, hs.warn, hs.olen, hwork rfl⟩

end Sys2Proof.Machine
end

section
/-! PROOFS. The steps of an unfolded command (10_state.md R40, R41; log 8): one equation per kind of step, what every step
does to the cursors, and that the invariant is kept. -/

namespace Sys2Proof.Machine

/-! ## One equation per kind of step -/

/-- The state with a command under way. -/
def State.withWork (s : State) (w : Work) : State := { s with work := some w }

/-- A matching header byte is staged (43_frame.md R161 step 2). -/
theorem Work.takeFrameByte_header {c : Config} {w : Work} {b : Byte} (h : w.line.ip < 12)
    (hm : b &&& c.hdrConst[w.line.ip].mask = c.hdrConst[w.line.ip].value) :
    w.takeFrameByte c b = .ok { w with hdr := w.hdr.set w.line.ip b, line := w.line.skip } := by
  rw [Work.takeFrameByte, dif_pos h, if_pos hm]

theorem Work.takeFrameByte_header_error {c : Config} {w : Work} {b : Byte} (h : w.line.ip < 12)
    (hm : ¬ b &&& c.hdrConst[w.line.ip].mask = c.hdrConst[w.line.ip].value) :
    w.takeFrameByte c b = .error (headerErr w.line.ip c.hdrConst[w.line.ip].value b) := by
  rw [Work.takeFrameByte, dif_pos h, if_neg hm]

/-- The marker is passed over (43_frame.md R161 step 3). -/
theorem Work.takeFrameByte_marker {c : Config} {w : Work} {b : Byte} (h : w.line.ip = markOff) :
    w.takeFrameByte c b =
      if b = fmtMark then .ok { w with line := w.line.skip } else .error (headerErr markOff fmtMark b) := by
  rw [Work.takeFrameByte, dif_neg (by rw [h]; decide), if_pos h]

/-- The terminator is passed over (43_frame.md R161 step 4). -/
theorem Work.takeFrameByte_terminator {c : Config} {w : Work} {b : Byte} (h : w.line.ip = termOff) :
    w.takeFrameByte c b = if b = term then .ok { w with line := w.line.skip } else .error (headerErr termOff term b) := by
  rw [Work.takeFrameByte, dif_neg (by rw [h]; decide), if_neg (by rw [h]; decide), if_pos h]

/-- A payload byte goes through the unpacker. -/
theorem Work.takeFrameByte_payload {c : Config} {w : Work} {b : Byte} (h : payOff ≤ w.line.ip) (ht : w.line.ip ≠ termOff) :
    w.takeFrameByte c b = .ok { w with line := w.line.consume b } := by
  have hm : w.line.ip ≠ markOff := by unfold payOff at h; unfold markOff; omega
  rw [Work.takeFrameByte, dif_neg (by unfold payOff at h; omega), if_neg hm, if_neg ht]

/-- A byte that is taken. -/
theorem State.takeStep_of_ok {s : State} {w w' : Work} (h : w.line.ip < s.ilen.toNat)
    (hb : w.takeByte s.config (s.ibuf.read w.line.ip) = .ok w') : s.takeStep w = s.withWork w' := by
  simp only [State.takeStep, if_pos h, hb, State.withWork]

/-- A byte that is rejected. -/
theorem State.takeStep_of_error {s : State} {w : Work} {e : Err} (h : w.line.ip < s.ilen.toNat)
    (hb : w.takeByte s.config (s.ibuf.read w.line.ip) = .error e) : s.takeStep w = s.errorEntry e := by
  simp only [State.takeStep, if_pos h, hb]

/-- What follows the input (log 8). -/
theorem State.takeStep_end_unpk {s : State} {w : Work} (h : ¬ w.line.ip < s.ilen.toNat) (hc : w.cmd = .unpk) :
    s.takeStep w = s.finish w := by
  rw [State.takeStep, if_neg h, hc]

theorem State.takeStep_end_pack {s : State} {w : Work} (h : ¬ w.line.ip < s.ilen.toNat) (hc : w.cmd = .pack) :
    s.takeStep w = s.withWork { w with phase := .emit } := by
  obtain ⟨cmd, phase, line, hdr, image, np, warn⟩ := w
  cases hc
  exact if_neg h

theorem State.takeStep_end_rdec {s : State} {w : Work} (h : ¬ w.line.ip < s.ilen.toNat) (hc : w.cmd = .rdec) :
    s.takeStep w = s.withWork { w with phase := .walk } := by
  obtain ⟨cmd, phase, line, hdr, image, np, warn⟩ := w
  cases hc
  exact if_neg h

theorem State.takeStep_end_fdec {s : State} {w : Work} (h : ¬ w.line.ip < s.ilen.toNat) (hc : w.cmd = .fdec) :
    s.takeStep w = s.withWork { w with phase := .walk, image := w.line.out } := by
  obtain ⟨cmd, phase, line, hdr, image, np, warn⟩ := w
  cases hc
  exact if_neg h

/-- What follows a walk (log 8): a decode commits, an encode goes on to its output. -/
theorem State.walkEnd_decode (s : State) {w : Work} (h : w.cmd = .rdec ∨ w.cmd = .fdec) : s.walkEnd w = s.finish w := by
  rcases h with hc | hc <;> rw [State.walkEnd, hc]

theorem State.walkEnd_encode (s : State) {w : Work} (h : w.cmd = .renc ∨ w.cmd = .fenc) :
    s.walkEnd w = s.withWork { w with phase := .emit } := by
  obtain ⟨cmd, phase, line, hdr, image, np, warn⟩ := w
  rcases h with rfl | rfl <;> rfl

/-- A header byte of `FENC` that matches is produced. -/
theorem State.headStep_of_matches {s : State} {w : Work} (h : w.line.op < 12)
    (hm : w.hdr[w.line.op] &&& s.config.hdrConst[w.line.op].mask = s.config.hdrConst[w.line.op].value) :
    s.headStep w = s.withWork { w with line := w.line.emit w.hdr[w.line.op] } := by
  rw [State.headStep, dif_pos h, if_pos hm, State.withWork]

theorem State.headStep_of_mismatch {s : State} {w : Work} (h : w.line.op < 12)
    (hm : ¬ w.hdr[w.line.op] &&& s.config.hdrConst[w.line.op].mask = s.config.hdrConst[w.line.op].value) :
    s.headStep w = s.errorEntry (headerErr w.line.op s.config.hdrConst[w.line.op].value w.hdr[w.line.op]) := by
  rw [State.headStep, dif_pos h, if_neg hm]

/-- Behind the header `FENC` produces the marker and goes on to the walk. -/
theorem State.headStep_marker {s : State} {w : Work} (h : ¬ w.line.op < 12) :
    s.headStep w = s.withWork { w with phase := .walk, line := w.line.emit fmtMark } := by
  rw [State.headStep, dif_neg h]
  rfl

/-- A byte of output. -/
theorem State.emitStep_of_lt {s : State} {w : Work} (h : w.line.op < w.outLen) :
    s.emitStep w = s.withWork { w with line := w.emitLine } := by
  rw [State.emitStep, if_pos h, State.withWork]

/-- The end of the output. -/
theorem State.emitStep_of_ge {s : State} {w : Work} (h : ¬ w.line.op < w.outLen) : s.emitStep w = s.finish w := by
  rw [State.emitStep, if_neg h]

/-! ## What a step of a running command does -/

/-- One step of a running command: it raises with its cursor as the offset, or goes on with its cursors moved as R40 says
and standing where they can stand, or commits with every cursor at its end. -/
inductive WorkResult (s : State) (w : Work) : State → Prop
  | raises (e : Err) (hoff : e.off = word w.cursor) : WorkResult s w (s.errorEntry e)
  | goesOn (w' : Work) (hadv : w.Advanced w' s.ilen.toNat) (hcur : s.CursorsOk w') (hpass : s.PassOk w') :
    WorkResult s w (s.withWork w')
  | commits (hip : w.line.ip = if readsInput w.cmd then s.ilen.toNat else 0)
    (hop : (workCommit w).out.length = w.line.op) (hnp : w.np = if walksCells w.cmd then natLen else 0)
    (hfits : (workCommit w).Fits s.config) : WorkResult s w (s.finish w)

/-- A byte consumed (10_state.md R40). -/
theorem Work.advanced_of_take {w w' : Work} {len : Nat} {bytes : List Byte} (hp : w.phase = .take)
    (hlt : w.line.ip < len) (hcmd : w'.cmd = w.cmd) (hip : w'.line.ip = w.line.ip + 1) (hnp : w'.np = w.np)
    (hout : w'.line.out = w.line.out ++ bytes) (hop : w'.line.op = w.line.op + bytes.length) (hlen : bytes.length ≤ 1) :
    w.Advanced w' len :=
  ⟨hcmd, by simp [hp, hlt, hip], by simp [hp, hnp], bytes, hout, hop, hlen, by simp [hp], by simp [hp]⟩

/-- A byte produced (10_state.md R40). -/
theorem Work.advanced_of_emit {w w' : Work} {len : Nat} {b : Byte} (hp : w.phase = .head ∨ w.phase = .emit)
    (hcmd : w'.cmd = w.cmd) (hip : w'.line.ip = w.line.ip) (hnp : w'.np = w.np)
    (hout : w'.line.out = w.line.out ++ [b]) (hop : w'.line.op = w.line.op + 1) : w.Advanced w' len := by
  rcases hp with hp | hp
  · exact ⟨hcmd, by simp [hp, hip], by simp [hp, hnp], [b], hout, hop, le_refl _, by simp [hp], by simp⟩
  · exact ⟨hcmd, by simp [hp, hip], by simp [hp, hnp], [b], hout, hop, le_refl _, by simp [hp], by simp⟩

/-- A cell walked (10_state.md R40). -/
theorem Work.advanced_of_walk {w : Work} {len : Nat} (warn : Option Nat) (hp : w.phase = .walk) (hlt : w.np < natLen) :
    w.Advanced { w with np := w.np + 1, warn := warn } len :=
  ⟨rfl, by simp [hp], by simp [hp, hlt], [], by simp, by simp, Nat.zero_le _, by simp, by simp [hp]⟩

/-- The change to the next pass, with every cursor at rest. -/
theorem Work.advanced_of_enter {w : Work} {len : Nat} (p : Phase) (image : List Byte)
    (h : (w.phase = .take ∧ ¬ w.line.ip < len) ∨ (w.phase = .walk ∧ ¬ w.np < natLen)) :
    w.Advanced { w with phase := p, image := image } len := by
  rcases h with ⟨hp, hend⟩ | ⟨hp, hend⟩
  · exact ⟨rfl, by simp [hend], by simp [hp], [], by simp, by simp, Nat.zero_le _, by simp, by simp [hp]⟩
  · exact ⟨rfl, by simp [hp], by simp [hend], [], by simp, by simp, Nat.zero_le _, by simp, by simp [hp]⟩

/-! ## The line registers of the unpacker and of the packer -/

/-- `K` one further, round the eight places of a chunk. -/
theorem toNat_succ_of_mod {k : BitVec 3} {p : Nat} (h : k.toNat = p % 8) : (k + 1).toNat = (p + 1) % 8 := by
  rw [BitVec.toNat_add, h]
  simp only [BitVec.ofNat_eq_ofNat, BitVec.toNat_ofNat]
  omega

/-- A consumed byte keeps `K` and `OP` where the unpacker's byte count puts them (40_unpack.md R111, R113). -/
theorem Line.consume_unpacked {l : Line} {p : Nat} (hk : l.k.toNat = p % 8) (hop : l.op = ulen p) (b : Byte) :
    (l.consume b).k.toNat = (p + 1) % 8 ∧ (l.consume b).op = ulen (p + 1) := by
  rcases Line.consume_cases l b with ⟨h0, hl⟩ | ⟨h0, hl⟩
  · have hp : p % 8 = 0 := by rw [← hk, h0]; rfl
    rw [hl]
    refine ⟨by simp only [BitVec.ofNat_eq_ofNat, BitVec.toNat_ofNat]; omega, ?_⟩
    rw [hop]
    unfold ulen
    omega
  · have hp : p % 8 ≠ 0 := fun h => h0 (BitVec.eq_of_toNat_eq (hk.trans h))
    rw [hl]
    refine ⟨toNat_succ_of_mod hk, ?_⟩
    dsimp only
    rw [hop]
    unfold ulen
    omega

/-- A consumed byte adds at most one byte of output, and `OP` counts it. -/
theorem Line.consume_out (l : Line) (b : Byte) :
    ∃ bytes : List Byte, (l.consume b).out = l.out ++ bytes ∧ (l.consume b).op = l.op + bytes.length ∧
      bytes.length ≤ 1 :=
  ⟨_, rfl, rfl, by cases (ustep l.k l.bm b).out <;> simp⟩

/-! ## Taking the input -/

section
variable {s : State} {w : Work}

/-- A byte through the unpacker; `q` counts the bytes that the unpacker has seen. -/
theorem workResult_consume (hp : w.phase = .take) (hcur : s.CursorsOk w) (hlt : w.line.ip < s.ilen.toNat) (b : Byte)
    (hfit : (w.line.consume b).op ≤ s.config.obufCap) (hpass : s.PassOk { w with line := w.line.consume b }) :
    WorkResult s w (s.withWork { w with line := w.line.consume b }) := by
  obtain ⟨-, -, hout, hnp, hwarn⟩ := hcur
  obtain ⟨bytes, hb, hop, hlen⟩ := w.line.consume_out b
  refine .goesOn _ (Work.advanced_of_take hp hlt rfl rfl rfl hb hop hlen) ⟨hlt, hfit, ?_, hnp, hwarn⟩ hpass
  rw [hb, hop, List.length_append, hout]

/-- A byte that the unpacker does not see, staged or passed over. -/
theorem workResult_skip (hp : w.phase = .take) (hcur : s.CursorsOk w) (hlt : w.line.ip < s.ilen.toNat)
    (h : Vector Byte 12) (image : List Byte)
    (hpass : s.PassOk { w with hdr := h, image := image, line := w.line.skip }) :
    WorkResult s w (s.withWork { w with hdr := h, image := image, line := w.line.skip }) := by
  obtain ⟨-, hop, hout, hnp, hwarn⟩ := hcur
  exact .goesOn _ (Work.advanced_of_take (bytes := []) hp hlt rfl rfl rfl (List.append_nil _).symm rfl (Nat.zero_le 1))
    ⟨hlt, hop, hout, hnp, hwarn⟩ hpass

/-- Taking a byte of a frame. -/
theorem workResult_take_frame_byte (hc : s.config.Valid) (hp : w.phase = .take) (hcmd : w.cmd = .fdec)
    (hcur : s.CursorsOk w) (hpass : s.PassOk w) (hlt : w.line.ip < s.ilen.toNat) :
    WorkResult s w (s.takeStep w) := by
  obtain ⟨-, hnat, -, -⟩ := caps_of_valid hc
  simp only [State.PassOk, hp, hcmd] at hpass
  obtain ⟨hlen, hnp, hk, hop⟩ := hpass
  have hbyte : w.takeByte s.config (s.ibuf.read w.line.ip) = w.takeFrameByte s.config (s.ibuf.read w.line.ip) := by
    rw [Work.takeByte, hcmd]
  have hcursor : w.cursor = w.line.ip := by rw [Work.cursor, hp]
  have hsame : (w.line.ip < payOff ∨ w.line.ip = termOff) →
      min (w.line.ip + 1) termOff - payOff = min w.line.ip termOff - payOff := by
    unfold payOff termOff; omega
  have hskip (h : Vector Byte 12) (hin : w.line.ip < payOff ∨ w.line.ip = termOff)
      (hok : w.takeByte s.config (s.ibuf.read w.line.ip) = .ok { w with hdr := h, line := w.line.skip }) :
      WorkResult s w (s.takeStep w) := by
    rw [State.takeStep_of_ok hlt hok]
    refine workResult_skip hp hcur hlt h w.image ?_
    simp only [State.PassOk, hp, hcmd]
    exact ⟨hlen, hnp, (hsame hin).symm ▸ hk, (hsame hin).symm ▸ hop⟩
  have hraise (v b : Byte) (hno : w.takeByte s.config (s.ibuf.read w.line.ip) = .error (headerErr w.line.ip v b)) :
      WorkResult s w (s.takeStep w) := by
    rw [State.takeStep_of_error hlt hno]
    exact .raises _ (congrArg word hcursor.symm)
  by_cases hhdr : w.line.ip < 12
  · by_cases hm : s.ibuf.read w.line.ip &&& s.config.hdrConst[w.line.ip].mask = s.config.hdrConst[w.line.ip].value
    · exact hskip _ (.inl (by unfold payOff; omega)) (hbyte.trans (Work.takeFrameByte_header hhdr hm))
    · exact hraise _ _ (hbyte.trans (Work.takeFrameByte_header_error hhdr hm))
  by_cases hmark : w.line.ip = markOff
  · have hframe := hbyte.trans (Work.takeFrameByte_marker hmark)
    split at hframe
    · exact hskip w.hdr (.inl (by rw [hmark]; decide)) hframe
    · exact hraise _ _ (by rw [hframe, hmark])
  by_cases hterm : w.line.ip = termOff
  · have hframe := hbyte.trans (Work.takeFrameByte_terminator hterm)
    split at hframe
    · exact hskip w.hdr (.inr hterm) hframe
    · exact hraise _ _ (by rw [hframe, hterm])
  · have hpay : payOff ≤ w.line.ip := by unfold markOff at hmark; unfold payOff; omega
    have hnext : min (w.line.ip + 1) termOff - payOff = min w.line.ip termOff - payOff + 1 := by
      unfold payOff at hpay; unfold termOff at hterm; unfold payOff termOff; unfold frameLen at hlen; omega
    obtain ⟨hk', hop'⟩ := Line.consume_unpacked hk hop (s.ibuf.read w.line.ip)
    rw [← hnext] at hk' hop'
    rw [State.takeStep_of_ok hlt (hbyte.trans (Work.takeFrameByte_payload hpay hterm))]
    refine workResult_consume hp hcur hlt _ ?_ ?_
    · refine le_trans (hop'.trans_le ?_) hnat
      unfold ulen natLen termOff payOff
      omega
    · simp only [State.PassOk, hp, hcmd]
      exact ⟨hlen, hnp, hk', hop'⟩

/-- Taking a byte. -/
theorem workResult_take_byte (hc : s.config.Valid) (hp : w.phase = .take) (hcur : s.CursorsOk w) (hpass : s.PassOk w)
    (hlt : w.line.ip < s.ilen.toNat) : WorkResult s w (s.takeStep w) := by
  obtain ⟨hibuf, -⟩ := caps_of_valid hc
  cases hcmd : w.cmd with
  | unpk =>
    simp only [State.PassOk, hp, hcmd] at hpass
    obtain ⟨hcap, hnp, hk, hop⟩ := hpass
    obtain ⟨hk', hop'⟩ := Line.consume_unpacked hk hop (s.ibuf.read w.line.ip)
    rw [State.takeStep_of_ok hlt (w' := { w with line := w.line.consume (s.ibuf.read w.line.ip) })
      (by rw [Work.takeByte, hcmd])]
    refine workResult_consume hp hcur hlt _ ?_ ?_
    · have := ulen_le (w.line.ip + 1)
      omega
    · simp only [State.PassOk, hp, hcmd]
      exact ⟨hcap, hnp, hk', hop'⟩
  | pack =>
    simp only [State.PassOk, hp, hcmd] at hpass
    obtain ⟨hcap, hnp, hop, hk, himg⟩ := hpass
    rw [State.takeStep_of_ok hlt
      (w' := { w with image := w.image ++ [s.ibuf.read w.line.ip], line := w.line.skip })
      (by rw [Work.takeByte, hcmd])]
    refine workResult_skip hp hcur hlt w.hdr _ ?_
    simp only [State.PassOk, hp, hcmd]
    exact ⟨hcap, hnp, hop, hk, by simp [himg]⟩
  | rdec =>
    simp only [State.PassOk, hp, hcmd] at hpass
    obtain ⟨hlen, hnp, hop, himg⟩ := hpass
    rw [State.takeStep_of_ok hlt
      (w' := { w with image := w.image ++ [s.ibuf.read w.line.ip], line := w.line.skip })
      (by rw [Work.takeByte, hcmd])]
    refine workResult_skip hp hcur hlt w.hdr _ ?_
    simp only [State.PassOk, hp, hcmd]
    exact ⟨hlen, hnp, hop, by simp [himg]⟩
  | fdec => exact workResult_take_frame_byte hc hp hcmd hcur hpass hlt
  | renc | fenc => simp only [State.PassOk, hp, hcmd] at hpass

/-- The end of the input. -/
theorem workResult_take_end (hp : w.phase = .take) (hcur : s.CursorsOk w) (hpass : s.PassOk w)
    (hend : ¬ w.line.ip < s.ilen.toNat) : WorkResult s w (s.takeStep w) := by
  obtain ⟨hip, hop, hout, hnp, hwarn⟩ := hcur
  have hip' : w.line.ip = s.ilen.toNat := by omega
  cases hcmd : w.cmd with
  | unpk =>
    simp only [State.PassOk, hp, hcmd] at hpass
    obtain ⟨hcap, hnp0, hk, -⟩ := hpass
    have hcommit : workCommit w = { out := w.line.out } := by rw [workCommit, hcmd]
    rw [State.takeStep_end_unpk hend hcmd]
    refine .commits (by simp [hcmd, readsInput, hip']) (by rw [hcommit, hout]) (by simp [hcmd, walksCells, hnp0]) ?_
    rw [hcommit]
    exact ⟨hout.trans_le hop, nofun, nofun⟩
  | pack =>
    simp only [State.PassOk, hp, hcmd] at hpass
    obtain ⟨hcap, hnp0, hop0, hk, himg⟩ := hpass
    rw [State.takeStep_end_pack hend hcmd]
    refine .goesOn _ (Work.advanced_of_enter .emit w.image (.inl ⟨hp, hend⟩)) ⟨hip, hop, hout, hnp, hwarn⟩ ?_
    simp only [State.PassOk, hcmd]
    exact ⟨hcap, hip', hnp0, himg, hop0.trans_le (Nat.zero_le _), hop0 ▸ hk⟩
  | rdec =>
    simp only [State.PassOk, hp, hcmd] at hpass
    obtain ⟨hlen, hnp0, hop0, himg⟩ := hpass
    rw [State.takeStep_end_rdec hend hcmd]
    refine .goesOn _ (Work.advanced_of_enter .walk w.image (.inl ⟨hp, hend⟩)) ⟨hip, hop, hout, hnp, hwarn⟩ ?_
    simp only [State.PassOk, hcmd]
    exact ⟨hlen, hip'.trans hlen, hop0, himg.trans (hip'.trans hlen)⟩
  | fdec =>
    simp only [State.PassOk, hp, hcmd] at hpass
    obtain ⟨hlen, hnp0, -, hop0⟩ := hpass
    have hnat : w.line.op = natLen := by
      rw [hop0, hip', hlen]
      rfl
    rw [State.takeStep_end_fdec hend hcmd]
    refine .goesOn _ (Work.advanced_of_enter .walk w.line.out (.inl ⟨hp, hend⟩)) ⟨hip, hop, hout, hnp, hwarn⟩ ?_
    simp only [State.PassOk, hcmd]
    exact ⟨hlen, hip'.trans hlen, hnat, hout.trans hnat⟩
  | renc | fenc => simp only [State.PassOk, hp, hcmd] at hpass

/-! ## The head of a frame -/

theorem workResult_head (hc : s.config.Valid) (hp : w.phase = .head) (hcur : s.CursorsOk w) (hpass : s.PassOk w) :
    WorkResult s w (s.headStep w) := by
  obtain ⟨-, -, hframe, -⟩ := caps_of_valid hc
  obtain ⟨hip, hop, hout, hnp, hwarn⟩ := hcur
  cases hcmd : w.cmd with
  | fenc =>
    simp only [State.PassOk, hp, hcmd] at hpass
    obtain ⟨hip0, hnp0, hopmark, hk, himg⟩ := hpass
    unfold markOff at hopmark
    unfold frameLen at hframe
    have hadv (w' : Work) (b : Byte) (hw' : w'.cmd = w.cmd ∧ w'.line = w.line.emit b ∧ w'.np = w.np) :
        w.Advanced w' s.ilen.toNat := by
      obtain ⟨h1, h2, h3⟩ := hw'
      exact Work.advanced_of_emit (b := b) (.inl hp) h1 (by rw [h2]; rfl) h3 (by rw [h2]; rfl) (by rw [h2]; rfl)
    have hcur' (b : Byte) : (w.line.emit b).op ≤ s.config.obufCap ∧ (w.line.emit b).out.length = (w.line.emit b).op := by
      simp only [Line.emit_op, Line.emit_out, List.length_append, List.length_singleton, hout, and_true]
      omega
    by_cases hlt : w.line.op < 12
    · by_cases hm : w.hdr[w.line.op] &&& s.config.hdrConst[w.line.op].mask = s.config.hdrConst[w.line.op].value
      · rw [State.headStep_of_matches hlt hm]
        refine .goesOn _ (hadv _ _ ⟨rfl, rfl, rfl⟩) ⟨hip, (hcur' _).1, (hcur' _).2, hnp, hwarn⟩ ?_
        simp only [State.PassOk, hp, hcmd]
        exact ⟨hip0, hnp0, hlt, hk, himg⟩
      · rw [State.headStep_of_mismatch hlt hm]
        exact .raises _ (by rw [Work.cursor, hp, headerErr])
    · rw [State.headStep_marker hlt]
      refine .goesOn _ (hadv _ _ ⟨rfl, rfl, rfl⟩) ⟨hip, (hcur' _).1, (hcur' _).2, hnp, hwarn⟩ ?_
      simp only [State.PassOk, hcmd]
      exact ⟨hip0, by simp only [Line.emit_op, payOff]; omega, hk, himg⟩
  | unpk | pack | rdec | renc | fdec => simp only [State.PassOk, hp, hcmd] at hpass

/-! ## The walk -/

/-- An image that is walked has all 339 cells. -/
theorem image_length_of_walk (hp : w.phase = .walk) (hpass : s.PassOk w) : w.image.length = natLen := by
  cases hcmd : w.cmd with
  | rdec | fdec | renc | fenc =>
    simp only [State.PassOk, hp, hcmd] at hpass
    simp only [hpass]
  | unpk | pack => simp only [State.PassOk, hp, hcmd] at hpass

/-- Neither the cursor `NP` nor the warning says in which pass a walk is. -/
theorem passOk_of_walk (hp : w.phase = .walk) (hpass : s.PassOk w) (np : Nat) (warn : Option Nat) :
    s.PassOk { w with np := np, warn := warn } := by
  cases hcmd : w.cmd with
  | rdec | fdec | renc | fenc =>
    simp only [State.PassOk, hp, hcmd] at hpass ⊢
    exact hpass
  | unpk | pack => simp only [State.PassOk, hp, hcmd] at hpass

/-- The walker's rule raises at the cursor (42_record.md R142). -/
theorem kindRule_error_off {c : Config} {es : Bool} {i : Nat} {b : Byte} {e : Err}
    (h : kindRule (kindAt c i) c es i b = .error e) : e.off = word i := by
  obtain ⟨-, rfl⟩ | ⟨-, -, rfl⟩ := (kindRule_eq_error_iff c es i b e).mp h <;> rfl

/-- A noted warning is below the cursor's next place. -/
theorem noteWarn_lt {warn : Option Nat} {np : Nat} (h : ∀ i ∈ warn, i < np) (u : Bool) :
    ∀ i ∈ noteWarn warn np u, i < np + 1 := by
  intro i hi
  cases warn with
  | some j =>
    rw [noteWarn_some] at hi
    exact (h i hi).trans (Nat.lt_succ_self np)
  | none =>
    cases u with
    | false => cases hi
    | true => cases hi; exact Nat.lt_succ_self _

theorem workResult_walk_cell (hw : s.work = some w) (hp : w.phase = .walk) (hcur : s.CursorsOk w) (hpass : s.PassOk w)
    (hlt : w.np < natLen) : ∃ t, step s = .next t ∧ WorkResult s w t := by
  obtain ⟨hip, hop, hout, hnp, hwarn⟩ := hcur
  have hcell : w.np < w.image.length := (image_length_of_walk hp hpass).symm ▸ hlt
  have hb := List.getElem?_eq_getElem hcell
  rw [step_walk s w hw hp hlt]
  cases hr : kindRule (kindAt s.config w.np) s.config s.es w.np w.image[w.np] with
  | error e =>
    refine ⟨_, State.walkCell_of_error hw hb hr, .raises e ?_⟩
    rw [Work.cursor, hp, kindRule_error_off hr]
  | ok u =>
    exact ⟨_, State.walkCell_of_ok hw hb hr, .goesOn _ (Work.advanced_of_walk _ hp hlt)
      ⟨hip, hop, hout, hlt, noteWarn_lt hwarn u⟩ (passOk_of_walk hp hpass _ _)⟩

theorem workResult_walk_end (hp : w.phase = .walk) (hcur : s.CursorsOk w) (hpass : s.PassOk w)
    (hend : ¬ w.np < natLen) : WorkResult s w (s.walkEnd w) := by
  obtain ⟨hip, hop, hout, hnp, hwarn⟩ := hcur
  have hnp' : w.np = natLen := by omega
  have hadv := Work.advanced_of_enter (len := s.ilen.toNat) .emit w.image (.inr ⟨hp, hend⟩)
  cases hcmd : w.cmd with
  | rdec =>
    simp only [State.PassOk, hp, hcmd] at hpass
    obtain ⟨hlen, hipend, hop0, himg⟩ := hpass
    have hcommit : workCommit w = { image := some w.image, warn := w.warn } := by rw [workCommit, hcmd]
    rw [State.walkEnd_decode s (by simp [hcmd])]
    refine .commits (by simp [hcmd, readsInput, hipend, hlen]) (by rw [hcommit, hop0]; rfl)
      (by simp [hcmd, walksCells, hnp']) ?_
    rw [hcommit]
    exact ⟨Nat.zero_le _, by rintro _ ⟨⟩; exact himg.le, hnp' ▸ hwarn⟩
  | fdec =>
    simp only [State.PassOk, hp, hcmd] at hpass
    obtain ⟨hlen, hipend, hopend, himg⟩ := hpass
    have hcommit : workCommit w = { hdr := some w.hdr, image := some w.image, out := w.line.out, warn := w.warn } := by
      rw [workCommit, hcmd]
    rw [State.walkEnd_decode s (by simp [hcmd])]
    refine .commits (by simp [hcmd, readsInput, hipend, hlen]) (by rw [hcommit, hout])
      (by simp [hcmd, walksCells, hnp']) ?_
    rw [hcommit]
    exact ⟨hout.trans_le hop, by rintro _ ⟨⟩; exact himg.le, hnp' ▸ hwarn⟩
  | renc =>
    simp only [State.PassOk, hp, hcmd] at hpass
    obtain ⟨hip0, hop0, himg⟩ := hpass
    rw [State.walkEnd_encode s (by simp [hcmd])]
    refine .goesOn _ hadv ⟨hip, hop, hout, hnp, hwarn⟩ ?_
    simp only [State.PassOk, hcmd]
    exact ⟨hip0, hnp', himg, hop0.trans_le (Nat.zero_le _)⟩
  | fenc =>
    simp only [State.PassOk, hp, hcmd] at hpass
    obtain ⟨hip0, hop0, hk, himg⟩ := hpass
    rw [State.walkEnd_encode s (by simp [hcmd])]
    refine .goesOn _ hadv ⟨hip, hop, hout, hnp, hwarn⟩ ?_
    simp only [State.PassOk, hcmd]
    refine ⟨hip0, hnp', himg, hop0.ge, hop0.trans_le (by decide), ?_⟩
    rw [hop0]
    exact hk
  | unpk | pack => simp only [State.PassOk, hp, hcmd] at hpass

/-! ## Producing the output -/

/-- The length of each command's output. -/
theorem Work.outLen_pack (h : w.cmd = .pack) : w.outLen = plen w.image.length := by rw [Work.outLen, h]

theorem Work.outLen_renc (h : w.cmd = .renc) : w.outLen = natLen := by rw [Work.outLen, h]

theorem Work.outLen_fenc (h : w.cmd = .fenc) : w.outLen = frameLen := by rw [Work.outLen, h]

/-- The byte that each command produces at `OP`. -/
theorem Work.emitLine_pack (h : w.cmd = .pack) : w.emitLine = w.line.emitPacked (packedAt w.image w.line.op) := by
  rw [Work.emitLine, h]

theorem Work.emitLine_renc (h : w.cmd = .renc) : w.emitLine = w.line.emit (w.image.getD w.line.op 0) := by
  rw [Work.emitLine, h]

theorem Work.emitLine_fenc_payload (h : w.cmd = .fenc) (hop : w.line.op < termOff) :
    w.emitLine = w.line.emitPacked (packedAt w.image (w.line.op - payOff)) := by
  rw [Work.emitLine, h]
  exact if_pos hop

theorem Work.emitLine_fenc_terminator (h : w.cmd = .fenc) (hop : ¬ w.line.op < termOff) :
    w.emitLine = w.line.emit term := by
  rw [Work.emitLine, h]
  exact if_neg hop

/-- A byte produced, packed or not. -/
theorem workResult_emit {l : Line} {b : Byte} (hp : w.phase = .emit) (hcur : s.CursorsOk w) (hip : l.ip = w.line.ip)
    (hop : l.op = w.line.op + 1) (hout : l.out = w.line.out ++ [b]) (hfit : w.line.op < s.config.obufCap)
    (hpass : s.PassOk { w with line := l }) : WorkResult s w (s.withWork { w with line := l }) := by
  obtain ⟨hipcur, -, hlen, hnp, hwarn⟩ := hcur
  refine .goesOn _ (Work.advanced_of_emit (.inr hp) rfl hip rfl hout hop)
    ⟨hip.trans_le hipcur, hop.trans_le hfit, ?_, hnp, hwarn⟩ hpass
  rw [hout, hop, List.length_append, List.length_singleton, hlen]

theorem workResult_emit_byte (hc : s.config.Valid) (hp : w.phase = .emit) (hcur : s.CursorsOk w) (hpass : s.PassOk w)
    (hlt : w.line.op < w.outLen) : WorkResult s w (s.emitStep w) := by
  obtain ⟨-, hnat, hframe, -⟩ := caps_of_valid hc
  have hstep := State.emitStep_of_lt (s := s) hlt
  cases hcmd : w.cmd with
  | pack =>
    simp only [State.PassOk, hp, hcmd] at hpass
    obtain ⟨hcap, hip, hnp, himg, -, hk⟩ := hpass
    rw [Work.outLen_pack hcmd] at hlt
    have hplen : plen w.image.length ≤ s.config.obufCap := by
      rw [himg, hip]
      exact (plen_le_obufCap hc.2.1 hcap).1
    rw [hstep, Work.emitLine_pack hcmd]
    refine workResult_emit (l := w.line.emitPacked _) hp hcur rfl rfl rfl (hlt.trans_le hplen) ?_
    simp only [State.PassOk, hp, hcmd]
    exact ⟨hcap, hip, hnp, himg, hlt, toNat_succ_of_mod hk⟩
  | renc =>
    simp only [State.PassOk, hp, hcmd] at hpass
    obtain ⟨hip, hnp, himg, -⟩ := hpass
    rw [Work.outLen_renc hcmd] at hlt
    rw [hstep, Work.emitLine_renc hcmd]
    refine workResult_emit (l := w.line.emit _) hp hcur rfl rfl rfl (hlt.trans_le hnat) ?_
    simp only [State.PassOk, hp, hcmd]
    exact ⟨hip, hnp, himg, hlt⟩
  | fenc =>
    simp only [State.PassOk, hp, hcmd] at hpass
    obtain ⟨hip, hnp, himg, hpay, -, hk⟩ := hpass
    rw [Work.outLen_fenc hcmd] at hlt
    by_cases hop : w.line.op < termOff
    · have hnext : min (w.line.op + 1) termOff - payOff = min w.line.op termOff - payOff + 1 := by
        unfold payOff at *; unfold termOff at *; omega
      rw [hstep, Work.emitLine_fenc_payload hcmd hop]
      refine workResult_emit (l := w.line.emitPacked _) hp hcur rfl rfl rfl (hlt.trans_le hframe) ?_
      simp only [State.PassOk, hp, hcmd]
      exact ⟨hip, hnp, himg, hpay.trans (Nat.le_succ _), hlt, hnext ▸ toNat_succ_of_mod hk⟩
    · have hsame : min (w.line.op + 1) termOff - payOff = min w.line.op termOff - payOff := by
        unfold payOff at *; unfold termOff at *; omega
      rw [hstep, Work.emitLine_fenc_terminator hcmd hop]
      refine workResult_emit (l := w.line.emit _) hp hcur rfl rfl rfl (hlt.trans_le hframe) ?_
      simp only [State.PassOk, hp, hcmd]
      exact ⟨hip, hnp, himg, hpay.trans (Nat.le_succ _), hlt, hsame ▸ hk⟩
  | unpk | rdec | fdec => simp only [State.PassOk, hp, hcmd] at hpass

theorem workResult_emit_end (hp : w.phase = .emit) (hcur : s.CursorsOk w) (hpass : s.PassOk w)
    (hend : ¬ w.line.op < w.outLen) : WorkResult s w (s.emitStep w) := by
  obtain ⟨-, hop, hout, -, hwarn⟩ := hcur
  rw [State.emitStep_of_ge hend]
  cases hcmd : w.cmd with
  | pack =>
    simp only [State.PassOk, hp, hcmd] at hpass
    obtain ⟨-, hip, hnp, -⟩ := hpass
    have hcommit : workCommit w = { out := w.line.out } := by rw [workCommit, hcmd]
    refine .commits (by simp [hcmd, readsInput, hip]) (by rw [hcommit, hout]) (by simp [hcmd, walksCells, hnp]) ?_
    rw [hcommit]
    exact ⟨hout.trans_le hop, nofun, nofun⟩
  | renc | fenc =>
    simp only [State.PassOk, hp, hcmd] at hpass
    obtain ⟨hip, hnp, -⟩ := hpass
    have hcommit : workCommit w = { out := w.line.out, warn := w.warn } := by rw [workCommit, hcmd]
    refine .commits (by simp [hcmd, readsInput, hip]) (by rw [hcommit, hout]) (by simp [hcmd, walksCells, hnp]) ?_
    rw [hcommit]
    exact ⟨hout.trans_le hop, nofun, hnp ▸ hwarn⟩
  | unpk | rdec | fdec => simp only [State.PassOk, hp, hcmd] at hpass

end

/-! ## Every step -/

/-- A command under way has a next state, which is one of the three. -/
theorem State.Inv.step_work {s : State} (h : s.Inv) {w : Work} (hw : s.work = some w) :
    ∃ t, step s = .next t ∧ WorkResult s w t := by
  obtain ⟨-, hcur, hpass⟩ := h.work w hw
  cases hp : w.phase with
  | take =>
    refine ⟨_, step_take s w hw hp, ?_⟩
    by_cases hlt : w.line.ip < s.ilen.toNat
    · exact workResult_take_byte h.config hp hcur hpass hlt
    · exact workResult_take_end hp hcur hpass hlt
  | head => exact ⟨_, step_head s w hw hp, workResult_head h.config hp hcur hpass⟩
  | walk =>
    by_cases hlt : w.np < natLen
    · exact workResult_walk_cell hw hp hcur hpass hlt
    · exact ⟨_, step_walk_end s w hw hp hlt, workResult_walk_end hp hcur hpass hlt⟩
  | emit =>
    refine ⟨_, step_emit s w hw hp, ?_⟩
    by_cases hlt : w.line.op < w.outLen
    · exact workResult_emit_byte h.config hp hcur hpass hlt
    · exact workResult_emit_end hp hcur hpass hlt

/-- While a command runs, the result registers are as its prologue left them. -/
theorem State.Inv.noError_of_work {s : State} (h : s.Inv) {w : Work} (hw : s.work = some w) : s.NoError := by
  obtain ⟨hstatus, -⟩ := h.work w hw
  obtain ⟨-, -, hiff, hzero⟩ := h.err
  have hcode : s.errcode = 0 := by
    by_contra hne
    rw [hiff.mp hne] at hstatus
    cases hstatus
  exact ⟨hcode, hzero hcode⟩

/-- A step of a running command keeps the invariant. -/
theorem WorkResult.inv {s t : State} {w : Work} (h : WorkResult s w t) (hs : s.Inv) (hw : s.work = some w) : t.Inv := by
  cases h with
  | raises e => exact hs.stored.errorEntry e
  | goesOn w' _ hcur hpass =>
    refine ⟨hs.config, hs.n, hs.ibuf, hs.obuf, hs.cfg, hs.status, hs.err, hs.warn, hs.olen, ?_⟩
    rintro _ ⟨⟩
    exact ⟨(hs.work w hw).1, hcur, hpass⟩
  | commits _ _ _ hfits => exact hs.stored.commit (hs.noError_of_work hw) hfits

/-- Settles O57: by the event, or by the pass of the command under way. -/
theorem stepKeepsInvariant : Obligations.StepKeepsInvariant := by
  intro s t hs h
  cases hw : s.work with
  | none =>
    rcases step_eventResult hw h with ⟨-, rfl⟩ | ⟨e, rest, -, hres⟩
    · exact hs
    · exact hres.inv (hs.with_model_fields rest none s.draws) hw
  | some w =>
    obtain ⟨t', ht', hres⟩ := hs.step_work hw
    rw [h] at ht'
    cases ht'
    exact hres.inv hs hw

/-! ## The refusals -/

/-- A read has a next state, or is refused outside the readable addresses. -/
theorem State.busRead_answers (a : Addr) (s : State) :
    (∃ t, s.busRead a = .next t) ∨
    ∃ r : Refusal, s.busRead a = .refused r ∧ ¬ ReadableAddr s.config a.toNat ∧
      (r = .unmapped a ∨ r = .readOfWriteOnly a) := by
  rcases State.busRead_cases a s with ⟨v, h⟩ | ⟨i, -, -, h⟩ | ⟨r, h, hr⟩
  · exact .inl ⟨_, h⟩
  · exact .inl ⟨_, h⟩
  · refine .inr ⟨r, h, ?_, hr⟩
    rw [← (locate_access s.config a).1]
    exact (State.busRead_refused_iff a s).mp ⟨r, h⟩

/-- A write has a next state, or is refused outside the writable addresses. -/
theorem fetchEvent_wr_answers (a : Addr) (d : Word) (s : State) :
    (∃ t, (State.fetchEvent (.wr a d) s).outcome = .next t) ∨
    ∃ r : Refusal, (State.fetchEvent (.wr a d) s).outcome = .refused r ∧ ¬ WritableAddr a.toNat ∧
      (r = .unmapped a ∨ r = .writeOfReadOnly a) := by
  by_cases h0 : a = 0x000
  · exact .inl (h0 ▸ fetchEvent_cmd_answers d s)
  by_cases h3 : a = 0x003
  · exact .inl (h3 ▸ fetchEvent_din_answers d s)
  have hbus := fetchEvent_write a d s h0 h3
  rw [hbus]
  rcases State.busWrite_cases a d s with ⟨i, -, h⟩ | ⟨i, -, h⟩ | ⟨-, h⟩ | ⟨r, h, hr⟩
  · exact .inl ⟨_, h⟩
  · exact .inl ⟨_, h⟩
  · exact .inl ⟨_, h⟩
  · refine .inr ⟨r, h, ?_, hr⟩
    rw [← (locate_access s.config a).2]
    exact (fetchEvent_wr_refused_iff a d s).mp ⟨r, hbus.trans h⟩

/-- Settles O58: a running command has a next state; an event has one too, unless it is an access to a location that is
not readable, or not writable. -/
theorem onlyBusAccessesAreRefused : Obligations.OnlyBusAccessesAreRefused := by
  intro s hs
  cases hw : s.work with
  | some w =>
    obtain ⟨t, ht, -⟩ := hs.step_work hw
    exact ⟨.inl ⟨t, ht⟩, fun _ => ⟨t, ht⟩⟩
  | none =>
    refine ⟨?_, fun h => ?command⟩
    case command =>
      rcases h with hne | ⟨w, rest, he⟩
      · exact absurd rfl hne
      · rw [step_event s _ rest hw he]
        exact fetchEvent_cmd_answers w _
    cases he : s.events with
    | nil => exact .inl ⟨s, step_idle s hw he⟩
    | cons e rest =>
      rw [step_event s e rest hw he]
      cases e with
      | reset => exact .inl ⟨_, fetchEvent_reset _⟩
      | rd a =>
        rw [fetchEvent_rd]
        refine (State.busRead_answers a (s.take rest)).imp_right fun ⟨r, hr, hread, hname⟩ => ?_
        refine ⟨r, hr, rfl, ?_, a, rest, .inl ⟨rfl, hread, hname⟩⟩
        rcases hname with rfl | rfl <;> rfl
      | wr a d =>
        refine (fetchEvent_wr_answers a d (s.take rest)).imp_right fun ⟨r, hr, hwrite, hname⟩ => ?_
        refine ⟨r, hr, rfl, ?_, a, rest, .inr ⟨d, rfl, hwrite, hname⟩⟩
        rcases hname with rfl | rfl <;> rfl

/-! ## The cursors -/

/-- The capacity check raises with offset 0 (60_exceptions.md R203). -/
theorem capacityCheck_off {s : State} {e : Err} (h : capacityCheck s = some e) : e.off = 0 := by
  unfold capacityCheck at h
  split at h
  · cases h
    rfl
  · cases h

/-- A command is refused its start with `ERROFF` 0, or starts with every working register at 0 (10_state.md R40). -/
theorem startWork_cases (cmd : PassCmd) (s : State) :
    (∃ e, startWork cmd s = .error e ∧ e.off = 0) ∨
    ∃ p image, startWork cmd s = .ok (Work.start cmd p s.hdr image) := by
  cases cmd with
  | unpk | pack =>
    cases hcheck : capacityCheck s with
    | some e => exact .inl ⟨e, by simp only [startWork, hcheck], capacityCheck_off hcheck⟩
    | none => exact .inr ⟨.take, [], by simp only [startWork, hcheck]⟩
  | rdec =>
    by_cases hlen : s.ilen.toNat = natLen
    · exact .inr ⟨.take, [], if_neg (not_not.mpr hlen)⟩
    · exact .inl ⟨_, if_pos hlen, rfl⟩
  | fdec =>
    by_cases hlen : s.ilen.toNat = frameLen
    · exact .inr ⟨.take, [], if_neg (not_not.mpr hlen)⟩
    · exact .inl ⟨_, if_pos hlen, rfl⟩
  | renc => exact .inr ⟨.walk, s.image, rfl⟩
  | fenc => exact .inr ⟨.head, s.image, rfl⟩

theorem State.begin_of_error {cmd : PassCmd} {s : State} {e : Err} (h : startWork cmd s.prologue = .error e) :
    s.begin cmd = s.prologue.errorEntry e := by
  simp only [State.begin, h]

theorem State.begin_of_ok {cmd : PassCmd} {s : State} {w : Work} (h : startWork cmd s.prologue = .ok w) :
    s.begin cmd = s.prologue.withWork w := by
  simp only [State.begin, h, State.withWork]

/-- Settles O59: the start of a command, then what each kind of step does to the cursors. -/
theorem cursorsAdvanceByOne : Obligations.CursorsAdvanceByOne := by
  refine ⟨fun cmd s => ?start, fun s t w hs hw h => ?step⟩
  case start =>
    rcases startWork_cases cmd s.prologue with ⟨e, he, hoff⟩ | ⟨p, image, hok⟩
    · rw [State.begin_of_error he]
      exact ⟨nofun, fun _ => ⟨rfl, hoff⟩⟩
    · rw [State.begin_of_ok hok]
      refine ⟨?_, nofun⟩
      rintro _ ⟨⟩
      exact ⟨rfl, rfl, rfl, rfl, rfl, rfl⟩
  case step =>
    obtain ⟨-, ⟨hip, hop, -, hnp, -⟩, -⟩ := hs.work w hw
    refine ⟨hip, hop, hnp, ?_⟩
    obtain ⟨t', ht', hres⟩ := hs.step_work hw
    rw [h] at ht'
    cases ht'
    cases hres with
    | raises e hoff => exact ⟨nofun, fun _ _ => hoff, fun _ hne => absurd rfl hne⟩
    | goesOn w' hadv =>
      refine ⟨?_, nofun, nofun⟩
      rintro _ ⟨⟩
      exact hadv
    | commits hipend hopend hnpend hfits =>
      refine ⟨nofun, fun _ herr => absurd herr (okStatus_ne_err _), fun _ _ => ⟨hipend, ?_, hnpend⟩⟩
      have hword : (workCommit w).out.length < 65536 := by
        have := caps_of_valid hs.config
        have := hfits.out
        omega
      exact (word_toNat hword).trans hopend

end Sys2Proof.Machine
end

section
/-! PROOFS. A command unfolded over the hidden registers ends where its one transition does (10_state.md R40, R41; log 8):
the runs of its passes, each by induction on the bytes that are left, and the six commands. -/

namespace Sys2Proof.Machine

/-! ## Runs -/

/-- Some number of steps takes `s` to `t`. -/
def Leads (s t : State) : Prop := ∃ k, Sys2Proof.core.run k s = .next t

theorem Leads.refl (s : State) : Leads s s := ⟨0, rfl⟩

/-- One step, then the rest of the run. -/
theorem Leads.step {s t u : State} (h : Machine.step s = .next t) (hrest : Leads t u) : Leads s u := by
  obtain ⟨k, hk⟩ := hrest
  have hcore : Sys2Proof.core.step s = .next t := h
  refine ⟨k + 1, ?_⟩
  simp only [Host.Core.run, hcore]
  exact hk

theorem lt_length_of_drop_eq_cons {α : Type} {l as : List α} {i : Nat} {a : α} (h : l.drop i = a :: as) :
    i < l.length := by
  by_contra hge
  rw [List.drop_eq_nil_of_le (by omega)] at h
  cases h

/-- An element of a vector and the elements after it. -/
theorem toList_drop_eq_cons {α : Type} {n i : Nat} (v : Vector α n) (h : i < n) :
    v.toList.drop i = v[i] :: v.toList.drop (i + 1) := by
  rw [List.drop_eq_getElem_cons (by simpa using h), Vector.getElem_toList]

/-! ## Taking the input -/

/-- The next byte of what is left of the input. -/
theorem State.read_of_input_drop {s : State} {ip : Nat} {b : Byte} {bs : List Byte} (h : s.input.drop ip = b :: bs) :
    ip < s.ilen.toNat ∧ s.ibuf.read ip = b ∧ s.input.drop (ip + 1) = bs := by
  have hlt : ip < s.input.length := lt_length_of_drop_eq_cons h
  rw [List.drop_eq_getElem_cons hlt] at h
  obtain ⟨hb, hbs⟩ := List.cons.inj h
  have hilen : ip < s.ilen.toNat := State.input_length s ▸ hlt
  refine ⟨hilen, ?_, hbs⟩
  rw [← State.input_getD s ip hilen, List.getD_eq_getElem _ _ hlt, hb]

/-- Nothing is left of the input when `IP` has passed it. -/
theorem State.not_lt_of_input_drop {s : State} {ip : Nat} (h : s.input.drop ip = []) : ¬ ip < s.ilen.toNat := by
  rw [List.drop_eq_nil_iff, State.input_length] at h
  omega

/-- The bytes of a pass over the input, one after the other, up to the first that is rejected. -/
def Work.takeBytes (c : Config) : Work → List Byte → Except Err Work
  | w, [] => .ok w
  | w, b :: bs => (w.takeByte c b).bind fun w' => Work.takeBytes c w' bs

@[simp] theorem Work.takeBytes_nil (c : Config) (w : Work) : w.takeBytes c [] = .ok w := rfl

theorem Work.takeBytes_cons_of_ok {c : Config} {w w' : Work} {b : Byte} (h : w.takeByte c b = .ok w') (bs : List Byte) :
    w.takeBytes c (b :: bs) = w'.takeBytes c bs := by
  rw [Work.takeBytes, h]
  rfl

theorem Work.takeBytes_cons_of_error {c : Config} {w : Work} {b : Byte} {e : Err} (h : w.takeByte c b = .error e)
    (bs : List Byte) : w.takeBytes c (b :: bs) = .error e := by
  rw [Work.takeBytes, h]
  rfl

theorem Work.takeBytes_append (c : Config) (w : Work) (xs ys : List Byte) :
    w.takeBytes c (xs ++ ys) = (w.takeBytes c xs).bind fun w' => w'.takeBytes c ys := by
  induction xs generalizing w with
  | nil => rfl
  | cons x xs ih =>
    cases hx : w.takeByte c x with
    | error e => rw [List.cons_append, takeBytes_cons_of_error hx, takeBytes_cons_of_error hx]; rfl
    | ok w' => rw [List.cons_append, takeBytes_cons_of_ok hx, takeBytes_cons_of_ok hx, ih]

/-- A byte taken moves `IP` on by one and leaves the command and its pass (10_state.md R40). -/
theorem Work.takeByte_keeps {c : Config} {w w' : Work} {b : Byte} (hr : readsInput w.cmd = true)
    (h : w.takeByte c b = .ok w') : w'.cmd = w.cmd ∧ w'.phase = w.phase ∧ w'.line.ip = w.line.ip + 1 := by
  cases hcmd : w.cmd with
  | unpk | pack | rdec =>
    rw [Work.takeByte, hcmd] at h
    cases h
    exact ⟨rfl, rfl, rfl⟩
  | fdec =>
    rw [Work.takeByte, hcmd] at h
    rcases Work.takeFrameByte_cases c w b with ⟨v, hok⟩ | hok | ⟨v, hno⟩
    · rw [hok] at h
      cases h
      exact ⟨hcmd, rfl, rfl⟩
    · rw [hok] at h
      cases h
      exact ⟨hcmd, rfl, rfl⟩
    · rw [hno] at h
      cases h
  | renc | fenc =>
    rw [hcmd] at hr
    cases hr

/-- One step of the first pass. -/
theorem step_takeByte_of_ok {s : State} {w v : Work} {b : Byte} {bs : List Byte} (hp : w.phase = .take)
    (hbs : s.input.drop w.line.ip = b :: bs) (hb : w.takeByte s.config b = .ok v) :
    step (s.withWork w) = .next (s.withWork v) := by
  obtain ⟨hlt, hread, -⟩ := State.read_of_input_drop hbs
  rw [step_take _ w rfl hp]
  exact congrArg Host.Outcome.next (State.takeStep_of_ok hlt (hread.symm ▸ hb))

theorem step_takeByte_of_error {s : State} {w : Work} {b : Byte} {bs : List Byte} {e : Err} (hp : w.phase = .take)
    (hbs : s.input.drop w.line.ip = b :: bs) (hb : w.takeByte s.config b = .error e) :
    step (s.withWork w) = .next (s.errorEntry e) := by
  obtain ⟨hlt, hread, -⟩ := State.read_of_input_drop hbs
  rw [step_take _ w rfl hp]
  exact congrArg Host.Outcome.next (State.takeStep_of_error hlt (hread.symm ▸ hb))

/-- The first pass, up to its end or to the first byte that is rejected. -/
theorem leads_take {s : State} {w : Work} {bs : List Byte} (hr : readsInput w.cmd = true) (hp : w.phase = .take)
    (hbs : s.input.drop w.line.ip = bs) :
    (∀ e, w.takeBytes s.config bs = .error e → Leads (s.withWork w) (s.errorEntry e)) ∧
    ∀ w' u, w.takeBytes s.config bs = .ok w' →
      (w'.phase = .take → ¬ w'.line.ip < s.ilen.toNat → Leads (s.withWork w') u) → Leads (s.withWork w) u := by
  induction bs generalizing w with
  | nil =>
    rw [Work.takeBytes_nil]
    refine ⟨fun e he => (nomatch he), fun w' u hw' hrest => ?_⟩
    cases hw'
    exact hrest hp (State.not_lt_of_input_drop hbs)
  | cons b bs ih =>
    cases hb : w.takeByte s.config b with
    | error e =>
      rw [Work.takeBytes_cons_of_error hb]
      refine ⟨fun e' he => ?_, fun w' u hw' => (nomatch hw')⟩
      cases he
      exact .step (step_takeByte_of_error hp hbs hb) (.refl _)
    | ok v =>
      obtain ⟨hcmd, hphase, hip⟩ := Work.takeByte_keeps hr hb
      obtain ⟨-, -, hdrop⟩ := State.read_of_input_drop hbs
      have hstep := step_takeByte_of_ok hp hbs hb
      obtain ⟨herror, hok⟩ := ih (hcmd ▸ hr) (hphase.trans hp) (hip ▸ hdrop)
      rw [Work.takeBytes_cons_of_ok hb]
      exact ⟨fun e he => .step hstep (herror e he), fun w' u hw' hrest => .step hstep (hok w' u hw' hrest)⟩

/-! ## The bytes that each command takes -/

/-- `UNPK` unpacks as it goes. -/
theorem Work.takeBytes_unpk (c : Config) {w : Work} (h : w.cmd = .unpk) (bs : List Byte) :
    w.takeBytes c bs = .ok { w with line := bs.foldl Line.consume w.line } := by
  induction bs generalizing w with
  | nil => rfl
  | cons b bs ih =>
    have hb : w.takeByte c b = .ok { w with line := w.line.consume b } := by rw [Work.takeByte, h]
    exact (takeBytes_cons_of_ok hb bs).trans (ih (w := { w with line := w.line.consume b }) h)

/-- `PACK` and `RDEC` stage their input. -/
theorem Work.takeBytes_stage (c : Config) {w : Work} (h : w.cmd = .pack ∨ w.cmd = .rdec) (bs : List Byte) :
    w.takeBytes c bs =
      .ok { w with image := w.image ++ bs, line := { w.line with ip := w.line.ip + bs.length } } := by
  induction bs generalizing w with
  | nil => simp
  | cons b bs ih =>
    have hb : w.takeByte c b = .ok { w with image := w.image ++ [b], line := w.line.skip } := by
      rcases h with h | h <;> rw [Work.takeByte, h]
    rw [takeBytes_cons_of_ok hb, ih (by exact h)]
    simp [Line.skip, Nat.add_assoc, Nat.add_comm 1]

section
variable {c : Config} {w : Work}

theorem Work.takeByte_fdec (h : w.cmd = .fdec) (b : Byte) : w.takeByte c b = w.takeFrameByte c b := by
  rw [Work.takeByte, h]

/-- `FDEC` on the header slice: the check of 43_frame.md R161 step 2, byte by byte. -/
theorem Work.takeBytes_header (h : w.cmd = .fdec) {hs : List Byte} (hlen : w.line.ip + hs.length = 12) :
    (∀ e, headerCheckFrom w.line.ip (c.hdrConst.toList.drop w.line.ip) hs = some e → w.takeBytes c hs = .error e) ∧
    (headerCheckFrom w.line.ip (c.hdrConst.toList.drop w.line.ip) hs = none →
      ∃ v : Vector Byte 12, v.toList = w.hdr.toList.take w.line.ip ++ hs ∧
        w.takeBytes c hs = .ok { w with hdr := v, line := { w.line with ip := 12 } }) := by
  induction hs generalizing w with
  | nil =>
    have hip : w.line.ip = 12 := hlen
    refine ⟨fun e he => ?_, fun _ => ⟨w.hdr, by simp [hip], by rw [← hip]; rfl⟩⟩
    rw [hip, List.drop_eq_nil_of_le (by simp)] at he
    cases he
  | cons b hs ih =>
    rw [List.length_cons] at hlen
    have hip : w.line.ip < 12 := by omega
    rw [toList_drop_eq_cons c.hdrConst hip, headerCheckFrom]
    by_cases hm : b &&& c.hdrConst[w.line.ip].mask = c.hdrConst[w.line.ip].value
    · have hb := (Work.takeByte_fdec h b).trans (Work.takeFrameByte_header (c := c) hip hm)
      rw [if_pos hm, takeBytes_cons_of_ok hb]
      obtain ⟨herror, hok⟩ := ih (w := { w with hdr := w.hdr.set w.line.ip b, line := w.line.skip }) h
        (by simp only [Line.skip_ip]; omega)
      refine ⟨herror, fun hnone => ?_⟩
      obtain ⟨v, hv, htake⟩ := hok hnone
      refine ⟨v, hv.trans ?_, htake⟩
      simp [List.take_add_one, hip, Vector.toList_set, List.take_set_of_le]
    · have hb := (Work.takeByte_fdec h b).trans (Work.takeFrameByte_header_error (c := c) hip hm)
      rw [if_neg hm, takeBytes_cons_of_error hb]
      refine ⟨?_, nofun⟩
      rintro _ ⟨⟩
      rfl

/-- `FDEC` on the payload: the bytes go through the unpacker. -/
theorem Work.takeBytes_payload (h : w.cmd = .fdec) {bs : List Byte} (hlow : payOff ≤ w.line.ip)
    (hhigh : w.line.ip + bs.length ≤ termOff) :
    w.takeBytes c bs = .ok { w with line := bs.foldl Line.consume w.line } := by
  induction bs generalizing w with
  | nil => rfl
  | cons b bs ih =>
    rw [List.length_cons] at hhigh
    have hb := (Work.takeByte_fdec h b).trans
      (Work.takeFrameByte_payload (c := c) hlow (by unfold termOff at *; omega))
    exact (takeBytes_cons_of_ok hb bs).trans (ih (w := { w with line := w.line.consume b }) h
      (hlow.trans (Nat.le_succ _)) (by simp only [Line.consume_ip]; omega))

/-- `IP` counts the consumed bytes. -/
theorem Line.foldl_consume_ip (l : Line) (bs : List Byte) : (bs.foldl Line.consume l).ip = l.ip + bs.length := by
  induction bs generalizing l with
  | nil => rfl
  | cons b bs ih => rw [List.foldl_cons, ih, Line.consume_ip, List.length_cons, Nat.add_assoc, Nat.add_comm 1]

end

/-- The hidden registers of `FDEC` when its input is taken. -/
def fdecTaken (raw : List Byte) : Work :=
  { Work.start .fdec .take (headerOf raw) [] with
    line := ((payload raw).foldl Line.consume { Line.start with ip := payOff }).skip }

/-- `FDEC` on what follows the header slice: the marker, the payload and the terminator (43_frame.md R161 steps 3 and 4). -/
theorem Work.takeBytes_behind_header {c : Config} {w : Work} (h : w.cmd = .fdec) (hip : w.line.ip = markOff) (m t : Byte)
    {p : List Byte} (hp : p.length = packedLen) :
    w.takeBytes c (m :: (p ++ [t])) =
      if m ≠ fmtMark then .error (headerErr markOff fmtMark m)
      else if t ≠ term then .error (headerErr termOff term t)
      else .ok { w with line := (p.foldl Line.consume w.line.skip).skip } := by
  have hm := (Work.takeByte_fdec (c := c) h m).trans (Work.takeFrameByte_marker hip)
  by_cases hmark : m = fmtMark
  · rw [if_pos hmark] at hm
    have hpay : payOff ≤ w.line.skip.ip := by rw [Line.skip_ip, hip]
    have hend : (p.foldl Line.consume w.line.skip).ip = termOff := by
      rw [Line.foldl_consume_ip, Line.skip_ip, hip, hp]; rfl
    have hpayload := Work.takeBytes_payload (c := c) (w := { w with line := w.line.skip }) (bs := p) h hpay
      (by rw [← Line.foldl_consume_ip]; exact hend.le)
    have ht := (Work.takeByte_fdec (c := c) (w := { w with line := p.foldl Line.consume w.line.skip }) h t).trans
      (Work.takeFrameByte_terminator hend)
    rw [takeBytes_cons_of_ok hm, takeBytes_append, hpayload, if_neg (not_not.mpr hmark)]
    by_cases hterm : t = term
    · rw [if_pos hterm] at ht
      rw [if_neg (not_not.mpr hterm)]
      exact takeBytes_cons_of_ok ht []
    · rw [if_neg hterm] at ht
      rw [if_pos hterm]
      exact takeBytes_cons_of_error ht []
  · rw [if_neg hmark] at hm
    rw [if_pos hmark, takeBytes_cons_of_error hm]

/-- The pass over a frame makes the tests of `frame_check` in their order (43_frame.md R161). -/
theorem Work.takeBytes_frame {c : Config} {raw : List Byte} {l : Word} (hl : l.toNat = frameLen)
    (hlen : raw.length = frameLen) (h : Vector Byte 12) :
    (∀ e, frameCheck c raw l = some e → (Work.start .fdec .take h []).takeBytes c raw = .error e) ∧
    (frameCheck c raw l = none → (Work.start .fdec .take h []).takeBytes c raw = .ok (fdecTaken raw)) := by
  obtain ⟨herror, hok⟩ := Work.takeBytes_header (c := c) (w := Work.start .fdec .take h [])
    (hs := (headerOf raw).toList) rfl (by rw [Vector.length_toList]; rfl)
  have hsplit := congrArg ((Work.start .fdec .take h []).takeBytes c) (frame_split hlen)
  rw [takeBytes_append] at hsplit
  cases hh : headerCheck c (headerOf raw) with
  | some e =>
    rw [frameCheck_of_header_error hl hh, hsplit, herror e hh]
    exact ⟨fun e' he => congrArg Except.error (Option.some.inj he), nofun⟩
  | none =>
    obtain ⟨v, hv, htake⟩ := hok hh
    obtain rfl : v = headerOf raw := Vector.toList_inj.mp hv
    have hrest := Work.takeBytes_behind_header (c := c)
      (w := { Work.start .fdec .take h [] with hdr := headerOf raw, line := { Line.start with ip := 12 } }) rfl rfl
      (raw.getD markOff 0) (raw.getD termOff 0) (payload_length hlen)
    rw [hsplit, htake, frameCheck_of_header_ok hl hh]
    refine ⟨fun e he => hrest.trans ?_, fun hnone => hrest.trans ?_⟩
    · split_ifs at he ⊢ with hm ht
      · exact congrArg Except.error (Option.some.inj he)
      · exact congrArg Except.error (Option.some.inj he)
    · split_ifs at hnone ⊢
      rfl

/-! ## The walk -/

/-- The walk over what is left of the image, up to its end or to the first cell that is rejected (42_record.md R142). -/
theorem leads_walk {s : State} {w : Work} {bs : List Byte} (hp : w.phase = .walk) (himg : w.image.length = natLen)
    (hnp : w.np ≤ natLen) (hbs : w.image.drop w.np = bs) :
    (∀ e, recWalkFrom s.config s.es w.np w.warn bs = .error e → Leads (s.withWork w) (s.errorEntry e)) ∧
    ∀ warn u, recWalkFrom s.config s.es w.np w.warn bs = .ok warn →
      Leads (s.withWork { w with np := natLen, warn := warn }) u → Leads (s.withWork w) u := by
  induction bs generalizing w with
  | nil =>
    have hend : w.np = natLen := hnp.antisymm (himg ▸ List.drop_eq_nil_iff.mp hbs)
    rw [recWalkFrom_nil]
    refine ⟨nofun, fun warn u hwarn hrest => ?_⟩
    cases hwarn
    rwa [← hend] at hrest
  | cons b bs ih =>
    have hlt : w.np < w.image.length := lt_length_of_drop_eq_cons hbs
    rw [List.drop_eq_getElem_cons hlt] at hbs
    obtain ⟨hb, hdrop⟩ := List.cons.inj hbs
    have hcell : w.image[w.np]? = some b := hb ▸ List.getElem?_eq_getElem hlt
    have hstep := step_walk (s.withWork w) w rfl hp (himg ▸ hlt)
    cases hr : kindRule (kindAt s.config w.np) s.config s.es w.np b with
    | error e =>
      rw [recWalkFrom_cons, hr]
      refine ⟨fun e' he => ?_, nofun⟩
      cases he
      exact .step (hstep.trans (State.walkCell_of_error rfl hcell hr)) (.refl _)
    | ok u =>
      have hnext := hstep.trans (State.walkCell_of_ok rfl hcell hr)
      obtain ⟨herror, hok⟩ := ih (w := { w with np := w.np + 1, warn := noteWarn w.warn w.np u }) hp himg
        (himg ▸ hlt) hdrop
      rw [recWalkFrom_cons, hr]
      exact ⟨fun e he => .step hnext (herror e he), fun warn u' hwarn hrest => .step hnext (hok warn u' hwarn hrest)⟩

/-- The end of the walk of a decode is its commit. -/
theorem leads_walk_decode {s : State} {w : Work} (hcmd : w.cmd = .rdec ∨ w.cmd = .fdec) (hp : w.phase = .walk)
    (hnp : w.np = natLen) : Leads (s.withWork w) (s.commit (workCommit w)) := by
  have hstep := step_walk_end (s.withWork w) w rfl hp (by omega)
  rw [State.walkEnd_decode _ hcmd] at hstep
  exact .step hstep (.refl _)

/-- The end of the walk of an encode is the start of its output. -/
theorem leads_walk_encode {s u : State} {w : Work} (hcmd : w.cmd = .renc ∨ w.cmd = .fenc) (hp : w.phase = .walk)
    (hnp : w.np = natLen) (h : Leads (s.withWork { w with phase := .emit }) u) : Leads (s.withWork w) u := by
  have hstep := step_walk_end (s.withWork w) w rfl hp (by omega)
  rw [State.walkEnd_encode _ hcmd] at hstep
  exact .step hstep h

/-! ## The header of FENC -/

/-- What is left of the header, up to the marker or to the first register that does not match (43_frame.md R170). -/
theorem leads_head {s : State} {w : Work} {hs : List Byte} (hp : w.phase = .head) (hop : w.line.op ≤ 12)
    (hhs : w.hdr.toList.drop w.line.op = hs) :
    (∀ e, headerCheckFrom w.line.op (s.config.hdrConst.toList.drop w.line.op) hs = some e →
      Leads (s.withWork w) (s.errorEntry e)) ∧
    (headerCheckFrom w.line.op (s.config.hdrConst.toList.drop w.line.op) hs = none → ∀ u,
      Leads (s.withWork { w with phase := .walk, line := (hs.foldl Line.emit w.line).emit fmtMark }) u →
      Leads (s.withWork w) u) := by
  induction hs generalizing w with
  | nil =>
    have hend : w.line.op = 12 := by
      rw [List.drop_eq_nil_iff, Vector.length_toList] at hhs
      omega
    have hstep := (step_head (s.withWork w) w rfl hp).trans
      (congrArg Host.Outcome.next (State.headStep_marker (by omega)))
    refine ⟨fun e he => ?_, fun _ u hrest => .step hstep hrest⟩
    rw [hend, List.drop_eq_nil_of_le (by simp)] at he
    cases he
  | cons b hs ih =>
    have hlt : w.line.op < 12 := by
      have hlen := lt_length_of_drop_eq_cons hhs
      rwa [Vector.length_toList] at hlen
    rw [toList_drop_eq_cons w.hdr hlt] at hhs
    obtain ⟨rfl, hdrop⟩ := List.cons.inj hhs
    have hstep := step_head (s.withWork w) w rfl hp
    rw [toList_drop_eq_cons s.config.hdrConst hlt, headerCheckFrom]
    by_cases hm : w.hdr[w.line.op] &&& s.config.hdrConst[w.line.op].mask = s.config.hdrConst[w.line.op].value
    · have hnext := hstep.trans (congrArg Host.Outcome.next (State.headStep_of_matches hlt hm))
      obtain ⟨herror, hok⟩ := ih (w := { w with line := w.line.emit w.hdr[w.line.op] }) hp hlt hdrop
      rw [if_pos hm]
      exact ⟨fun e he => .step hnext (herror e he), fun hnone u hrest => .step hnext (hok hnone u hrest)⟩
    · have hraise := hstep.trans (congrArg Host.Outcome.next (State.headStep_of_mismatch hlt hm))
      rw [if_neg hm]
      refine ⟨fun e he => ?_, nofun⟩
      cases he
      exact .step hraise (.refl _)

/-! ## Producing the output -/

/-- `OP` counts the produced bytes, and they are staged in order. -/
theorem Line.foldl_op {f : Line → Byte → Line} (hf : ∀ l b, (f l b).op = l.op + 1) (l : Line) (bs : List Byte) :
    (bs.foldl f l).op = l.op + bs.length := by
  induction bs generalizing l with
  | nil => rfl
  | cons b bs ih => rw [List.foldl_cons, ih, hf, List.length_cons, Nat.add_assoc, Nat.add_comm 1]

theorem Line.foldl_out {f : Line → Byte → Line} (hf : ∀ l b, (f l b).out = l.out ++ [b]) (l : Line) (bs : List Byte) :
    (bs.foldl f l).out = l.out ++ bs := by
  induction bs generalizing l with
  | nil => simp
  | cons b bs ih => rw [List.foldl_cons, ih, hf, List.append_assoc, List.singleton_append]

/-- From the line registers of `w` on, the pass produces the bytes `bs`, each with the update `f`. -/
def Work.Emits (w : Work) (f : Line → Byte → Line) (bs : List Byte) : Prop :=
  ∀ (l : Line) (i : Nat) (b : Byte), bs[i]? = some b → l.op = w.line.op + i →
    l.op < w.outLen ∧ { w with line := l }.emitLine = f l b

theorem Work.Emits.tail {w : Work} {f : Line → Byte → Line} {b : Byte} {bs : List Byte} (h : w.Emits f (b :: bs))
    (hop : (f w.line b).op = w.line.op + 1) : { w with line := f w.line b }.Emits f bs := by
  intro l i b' hb' hl
  exact h l (i + 1) b' hb' (hl.trans (by dsimp only; omega))

/-- The bytes of a pass over the output, one after the other. -/
theorem leads_emit {s u : State} {w : Work} {f : Line → Byte → Line} {bs : List Byte}
    (hf : ∀ l b, (f l b).op = l.op + 1) (hp : w.phase = .emit) (hemits : w.Emits f bs)
    (h : Leads (s.withWork { w with line := bs.foldl f w.line }) u) : Leads (s.withWork w) u := by
  induction bs generalizing w with
  | nil => exact h
  | cons b bs ih =>
    obtain ⟨hlt, hline⟩ := hemits w.line 0 b rfl rfl
    have hstep := (step_emit (s.withWork w) w rfl hp).trans (congrArg Host.Outcome.next (State.emitStep_of_lt hlt))
    rw [show w.emitLine = f w.line b from hline] at hstep
    exact .step hstep (ih (w := { w with line := f w.line b }) hp (hemits.tail (hf _ _)) h)

/-- The end of the output is the commit. -/
theorem leads_emit_end {s : State} {w : Work} (hp : w.phase = .emit) (hend : w.outLen ≤ w.line.op) :
    Leads (s.withWork w) (s.commit (workCommit w)) := by
  have hstep := step_emit (s.withWork w) w rfl hp
  rw [State.emitStep_of_ge hend.not_gt] at hstep
  exact .step hstep (.refl _)

/-- The last bytes of the output, then the commit. -/
theorem leads_emit_all {s : State} {w : Work} {f : Line → Byte → Line} {bs : List Byte}
    (hf : ∀ l b, (f l b).op = l.op + 1) (hp : w.phase = .emit) (hemits : w.Emits f bs)
    (hlen : w.line.op + bs.length = w.outLen) :
    Leads (s.withWork w) (s.commit (workCommit { w with line := bs.foldl f w.line })) :=
  leads_emit hf hp hemits (leads_emit_end (w := { w with line := bs.foldl f w.line }) hp
    ((Line.foldl_op hf w.line bs).trans hlen).ge)

/-- The byte of `pack(x)` at an offset. -/
theorem packedAt_of_getElem? {x : List Byte} {p : Nat} {b : Byte} (h : (pack x)[p]? = some b) :
    p < plen x.length ∧ packedAt x p = b := by
  rw [pack_getElem?] at h
  split at h
  next hlt => exact ⟨hlt, Option.some.inj h⟩
  next => cases h

theorem Work.emits_pack {w : Work} (h : w.cmd = .pack) (hop : w.line.op = 0) :
    w.Emits Line.emitPacked (pack w.image) := by
  intro l i b hb hl
  obtain rfl : l.op = i := by rw [hl, hop, Nat.zero_add]
  obtain ⟨hlt, hbyte⟩ := packedAt_of_getElem? hb
  exact ⟨(Work.outLen_pack h).symm ▸ hlt, (Work.emitLine_pack (w := { w with line := l }) h).trans (by rw [hbyte])⟩

theorem Work.emits_renc {w : Work} (h : w.cmd = .renc) (himg : w.image.length = natLen) (hop : w.line.op = 0) :
    w.Emits Line.emit w.image := by
  intro l i b hb hl
  obtain rfl : l.op = i := by rw [hl, hop, Nat.zero_add]
  obtain ⟨hlt, -⟩ := List.getElem?_eq_some_iff.mp hb
  have hbyte : w.image.getD l.op 0 = b := by rw [List.getD_eq_getElem?_getD, hb]; rfl
  exact ⟨(Work.outLen_renc h).symm ▸ himg ▸ hlt,
    (Work.emitLine_renc (w := { w with line := l }) h).trans (by rw [hbyte])⟩

theorem Work.emits_fenc_payload {w : Work} (h : w.cmd = .fenc) (himg : w.image.length = natLen)
    (hop : w.line.op = payOff) : w.Emits Line.emitPacked (pack w.image) := by
  intro l i b hb hl
  obtain ⟨hlt, hbyte⟩ := packedAt_of_getElem? hb
  have hi : i < packedLen := by
    rw [himg] at hlt
    exact hlt
  have hterm : l.op < termOff := by rw [hl, hop]; exact Nat.add_lt_add_left hi payOff
  have hoff : l.op - payOff = i := by omega
  refine ⟨(Work.outLen_fenc h).symm ▸ hterm.trans (by decide),
    (Work.emitLine_fenc_payload (w := { w with line := l }) h hterm).trans ?_⟩
  rw [hoff, hbyte]

theorem Work.emits_fenc_terminator {w : Work} (h : w.cmd = .fenc) (hop : w.line.op = termOff) :
    w.Emits Line.emit [term] := by
  intro l i b hb hl
  obtain ⟨hi, rfl⟩ := List.getElem?_eq_some_iff.mp hb
  obtain rfl : i = 0 := by simpa using hi
  have hl : l.op = termOff := hl.trans hop
  exact ⟨(Work.outLen_fenc h).symm ▸ hl ▸ by decide,
    Work.emitLine_fenc_terminator (w := { w with line := l }) h hl.ge.not_gt⟩

/-! ## The six commands -/

section
variable {s : State}

theorem leads_unpk (h : s.ilen.toNat ≤ s.config.ibufCap) :
    Leads (s.withWork (Work.start .unpk .take s.hdr [])) (s.epilogue (bodyUnpk s)) := by
  rw [bodyUnpk_of_fits s h]
  refine (leads_take rfl rfl rfl).2 _ _ (Work.takeBytes_unpk _ rfl s.input) fun hp hend => ?_
  have hstep := (step_take _ _ rfl hp).trans
    (congrArg Host.Outcome.next (State.takeStep_end_unpk (s := s.withWork _) hend rfl))
  have hout := Line.foldl_consume_out Line.start s.input
  exact .step hstep (by rw [State.finish, workCommit]; exact hout ▸ .refl _)

theorem leads_pack (h : s.ilen.toNat ≤ s.config.ibufCap) :
    Leads (s.withWork (Work.start .pack .take s.hdr [])) (s.epilogue (bodyPack s)) := by
  rw [bodyPack_of_fits s h]
  refine (leads_take rfl rfl rfl).2 _ _ (Work.takeBytes_stage _ (.inl rfl) s.input) fun hp hend => ?_
  have hstep := (step_take _ _ rfl hp).trans
    (congrArg Host.Outcome.next (State.takeStep_end_pack (s := s.withWork _) hend rfl))
  have hemit := leads_emit_all (s := s) Line.emitPacked_op rfl (Work.emits_pack (w :=
    { Work.start .pack .emit s.hdr s.input with line := { Line.start with ip := 0 + s.input.length } }) rfl rfl)
    ((Nat.zero_add _).trans (pack_length s.input))
  rw [workCommit, Line.foldl_out Line.emitPacked_out] at hemit
  exact .step hstep hemit

theorem bodyRdec_of_length (h : s.ilen.toNat = natLen) :
    (∀ e, recWalk s.config s.es s.input = .error e → bodyRdec s = .error e) ∧
    ∀ warn, recWalk s.config s.es s.input = .ok warn → bodyRdec s = .ok { image := some s.input, warn := warn } := by
  constructor
  all_goals
    intro r hr
    rw [bodyRdec, if_neg (not_not.mpr h), hr]

theorem leads_rdec (h : s.ilen.toNat = natLen) :
    Leads (s.withWork (Work.start .rdec .take s.hdr [])) (s.epilogue (bodyRdec s)) := by
  refine (leads_take rfl rfl rfl).2 _ _ (Work.takeBytes_stage _ (.inr rfl) s.input) fun hp hend => ?_
  have hstep := (step_take _ _ rfl hp).trans
    (congrArg Host.Outcome.next (State.takeStep_end_rdec (s := s.withWork _) hend rfl))
  obtain ⟨herror, hok⟩ := leads_walk (s := s) (w :=
    { Work.start .rdec .walk s.hdr s.input with line := { Line.start with ip := 0 + s.input.length } }) rfl
    ((State.input_length s).trans h) (Nat.zero_le _) rfl
  refine .step hstep ?_
  cases hwalk : recWalk s.config s.es s.input with
  | error e =>
    rw [(bodyRdec_of_length h).1 e hwalk]
    exact herror e hwalk
  | ok warn =>
    rw [(bodyRdec_of_length h).2 warn hwalk]
    exact hok warn _ hwalk (leads_walk_decode (.inl rfl) rfl rfl)

theorem leads_renc : Leads (s.withWork (Work.start .renc .walk s.hdr s.image)) (s.epilogue (bodyRenc s)) := by
  obtain ⟨herror, hok⟩ := leads_walk (s := s) (w := Work.start .renc .walk s.hdr s.image) rfl s.image_length
    (Nat.zero_le _) rfl
  cases hwalk : recWalk s.config s.es s.image with
  | error e =>
    rw [bodyRenc_of_walk_error hwalk]
    exact herror e hwalk
  | ok warn =>
    rw [bodyRenc_of_walk_ok hwalk]
    refine hok warn _ hwalk (leads_walk_encode (.inl rfl) rfl rfl ?_)
    have hemit := leads_emit_all (s := s) Line.emit_op rfl (Work.emits_renc (w :=
      { Work.start .renc .emit s.hdr s.image with np := natLen, warn := warn }) rfl s.image_length rfl)
      ((Nat.zero_add _).trans s.image_length)
    rw [workCommit, Line.foldl_out Line.emit_out] at hemit
    exact hemit

theorem fdecTaken_out (raw : List Byte) : (fdecTaken raw).line.out = unpack (payload raw) :=
  (Line.foldl_consume_out _ _).trans (List.nil_append _)

/-- The body of `FDEC` behind a frame check that passes: the walk over the unpacked payload decides. -/
theorem bodyFdec_of_frame (hf : frameCheck s.config s.input s.ilen = none) :
    (∀ e, recWalk s.config s.es (unpack (payload s.input)) = .error e → bodyFdec s = .error e) ∧
    ∀ warn, recWalk s.config s.es (unpack (payload s.input)) = .ok warn →
      bodyFdec s = .ok (fdecCommit s.input warn) := by
  refine ⟨fun e he => (bodyFdec_eq_error_iff s e).mpr (.inr ⟨hf, ?_⟩), fun warn hwarn =>
    (bodyFdec_eq_ok_iff s _).mpr ⟨hf, warn, hwarn, rfl⟩⟩
  rwa [← unpack_payload_input (length_eq_of_frameCheck_eq_none hf)]

theorem leads_fdec (h : s.ilen.toNat = frameLen) :
    Leads (s.withWork (Work.start .fdec .take s.hdr [])) (s.epilogue (bodyFdec s)) := by
  have hlen : s.input.length = frameLen := (State.input_length s).trans h
  obtain ⟨htaken, hraised⟩ := And.symm (Work.takeBytes_frame (c := s.config) h hlen s.hdr)
  cases hf : frameCheck s.config s.input s.ilen with
  | some e =>
    rw [(bodyFdec_eq_error_iff s e).mpr (.inl hf)]
    exact (leads_take rfl rfl rfl).1 e (hraised e hf)
  | none =>
    refine (leads_take rfl rfl rfl).2 _ _ (htaken hf) fun hp hend => ?_
    have hstep := (step_take _ _ rfl hp).trans
      (congrArg Host.Outcome.next (State.takeStep_end_fdec (s := s.withWork _) hend rfl))
    rw [fdecTaken_out] at hstep
    obtain ⟨herror, hok⟩ := leads_walk (s := s)
      (w := { fdecTaken s.input with phase := .walk, image := unpack (payload s.input) }) rfl
      (unpack_payload_length hlen) (Nat.zero_le _) rfl
    refine .step hstep ?_
    cases hwalk : recWalk s.config s.es (unpack (payload s.input)) with
    | error e =>
      rw [(bodyFdec_of_frame hf).1 e hwalk]
      exact herror e hwalk
    | ok warn =>
      rw [(bodyFdec_of_frame hf).2 warn hwalk]
      refine hok warn _ hwalk ?_
      have hcommit := leads_walk_decode (s := s)
        (w := { fdecTaken s.input with phase := .walk, image := unpack (payload s.input), np := natLen, warn := warn })
        (.inr rfl) rfl rfl
      rw [workCommit, fdecTaken_out] at hcommit
      exact hcommit

theorem workCommit_fenc {w : Work} (h : w.cmd = .fenc) : workCommit w = { out := w.line.out, warn := w.warn } := by
  rw [workCommit, h]

/-- The output of `FENC` behind its marker: the packed image, then the terminator (43_frame.md R171). -/
theorem leads_emit_fenc {w : Work} (h : w.cmd = .fenc) (hp : w.phase = .emit) (himg : w.image.length = natLen)
    (hop : w.line.op = payOff) :
    Leads (s.withWork w) (s.commit { out := w.line.out ++ pack w.image ++ [term], warn := w.warn }) := by
  have hterm : ((pack w.image).foldl Line.emitPacked w.line).op = termOff := by
    rw [Line.foldl_op Line.emitPacked_op, hop, pack_image_length himg]
    rfl
  have hend := leads_emit_all (s := s) (w := { w with line := (pack w.image).foldl Line.emitPacked w.line })
    Line.emit_op hp (Work.emits_fenc_terminator h hterm)
    ((congrArg (· + 1) hterm).trans (Work.outLen_fenc h).symm)
  rw [workCommit_fenc (by exact h), Line.foldl_out Line.emit_out, Line.foldl_out Line.emitPacked_out] at hend
  exact leads_emit Line.emitPacked_op hp (Work.emits_fenc_payload h himg hop) hend

theorem leads_fenc : Leads (s.withWork (Work.start .fenc .head s.hdr s.image)) (s.epilogue (bodyFenc s)) := by
  obtain ⟨hmismatch, hmatch⟩ := leads_head (s := s) (w := Work.start .fenc .head s.hdr s.image) rfl (Nat.zero_le _) rfl
  cases hh : headerCheck s.config s.hdr with
  | some e =>
    rw [bodyFenc_of_header_error hh]
    exact hmismatch e hh
  | none =>
    refine hmatch hh _ ?_
    obtain ⟨herror, hok⟩ := leads_walk (s := s) (w := { Work.start .fenc .walk s.hdr s.image with
      line := (s.hdr.toList.foldl Line.emit Line.start).emit fmtMark }) rfl s.image_length (Nat.zero_le _) rfl
    cases hwalk : recWalk s.config s.es s.image with
    | error e =>
      rw [bodyFenc_of_walk_error hh hwalk]
      exact herror e hwalk
    | ok warn =>
      rw [bodyFenc_of_walk_ok hh hwalk]
      refine hok warn _ hwalk (leads_walk_encode (.inr rfl) rfl rfl ?_)
      have hemit := leads_emit_fenc (s := s) (w := { Work.start .fenc .emit s.hdr s.image with
        line := (s.hdr.toList.foldl Line.emit Line.start).emit fmtMark, np := natLen, warn := warn }) rfl rfl
        s.image_length (by rw [Line.emit_op, Line.foldl_op Line.emit_op, Vector.length_toList]; rfl)
      rw [Line.emit_out, Line.foldl_out Line.emit_out] at hemit
      exact hemit

end

/-! ## The commands begun -/

/-- The check that a command makes at its start is the one its body makes first; a command that passes it runs to the
outcome of its body. -/
theorem startWork_leads {cmd : PassCmd} {s : State} (henc : (passInstr cmd).wellFormed s.config = true) :
    (∃ e, startWork cmd s = .error e ∧ passBody cmd s = .error e) ∨
    ∃ w, startWork cmd s = .ok w ∧ Leads (s.withWork w) (s.epilogue (passBody cmd s)) := by
  cases cmd with
  | unpk =>
    cases hcap : capacityCheck s with
    | some e => exact .inl ⟨e, by simp only [startWork, hcap], by simp only [passBody, bodyUnpk, hcap]⟩
    | none => exact .inr ⟨_, by simp only [startWork, hcap], leads_unpk ((capacityCheck_eq_none s).mp hcap)⟩
  | pack =>
    rw [passBody_pack henc]
    cases hcap : capacityCheck s with
    | some e => exact .inl ⟨e, by simp only [startWork, hcap], by simp only [bodyPack, hcap]⟩
    | none => exact .inr ⟨_, by simp only [startWork, hcap], leads_pack ((capacityCheck_eq_none s).mp hcap)⟩
  | rdec =>
    by_cases hlen : s.ilen.toNat = natLen
    · exact .inr ⟨_, if_neg (not_not.mpr hlen), leads_rdec hlen⟩
    · exact .inl ⟨_, if_pos hlen, if_pos hlen⟩
  | fdec =>
    by_cases hlen : s.ilen.toNat = frameLen
    · exact .inr ⟨_, if_neg (not_not.mpr hlen), leads_fdec hlen⟩
    · exact .inl ⟨_, if_pos hlen, (bodyFdec_eq_error_iff s _).mpr (.inl (frameCheck_of_length_ne hlen))⟩
  | renc =>
    rw [passBody_renc henc]
    exact .inr ⟨_, rfl, leads_renc⟩
  | fenc =>
    rw [passBody_fenc henc]
    exact .inr ⟨_, rfl, leads_fenc⟩

/-- Settles O60: the start of the command, then its passes one after the other, each by induction on the bytes or cells
that are left. -/
theorem unfoldedCommandsAgree : Obligations.UnfoldedCommandsAgree := by
  intro s cmd henc
  rw [exec_passInstr]
  rcases startWork_leads (s := s.prologue) henc with ⟨e, hstart, hbody⟩ | ⟨w, hstart, hleads⟩
  · rw [State.begin_of_error hstart, State.dataCommand_of_error _ _ _ hbody]
    exact Leads.refl _
  · rw [State.begin_of_ok hstart]
    exact hleads

end Sys2Proof.Machine
end
